-- ==== Sys2Proof/Word.lean ====
section
/-! DEFINITION. The word types of the hardware: 32-bit words, 16-bit halfwords, bytes, and the two byte orders (rules R7, R8, R20, R52). -/

namespace Sys2Proof

/-- A register value, address or data word (rule R8). -/
abbrev Word := BitVec 32

/-- An instruction word or a halfword of data (rules R7, R80). -/
abbrev Half := BitVec 16

/-- The unit a memory address names (rule R50). -/
abbrev Byte := BitVec 8

/-- The parameter `ENDIAN` (rule R52). -/
inductive Endian where
  | little
  | big
deriving DecidableEq, Repr

/-- The width of one memory access (rule R57). -/
inductive Width where
  | byte
  | half
  | word
deriving DecidableEq, Repr

/-- The number `n` of bytes of an access (rule R10). -/
def Width.bytes : Width → Nat
  | .byte => 1
  | .half => 2
  | .word => 4

end Sys2Proof
end

