-- ==== Sys2Proof/Machine/ByteOrder.lean ====
section
/-! DEFINITION. Bytes and values under the two byte orders (rule R52). -/

namespace Sys2Proof

/-- The value of bytes at rising addresses, least significant first: the sum of `M[a+i] << (8*i)` (rule R52, `little`). -/
def joinLittle : List Byte → Nat
  | [] => 0
  | b :: bs => b.toNat + 256 * joinLittle bs

/-- The `n` low bytes of a value, least significant first (rule R52, `little`). -/
def splitLittle : Nat → Nat → List Byte
  | 0, _ => []
  | n + 1, v => BitVec.ofNat 8 v :: splitLittle n (v / 256)

/-- The unsigned value of the bytes at rising addresses (rule R52). -/
def joinBytes : Endian → List Byte → Nat
  | .little, bs => joinLittle bs
  | .big, bs => joinLittle bs.reverse

/-- The `n` bytes, at rising addresses, that hold the low `8*n` bits of a value (rule R52). -/
def splitBytes : Endian → Nat → Nat → List Byte
  | .little, n, v => splitLittle n v
  | .big, n, v => (splitLittle n v).reverse

end Sys2Proof
end

