-- ==== Sys2Proof/Syntax.lean ====
section
/-! DEFINITION. The instructions of the THUMB set, one constructor per row of the opcode table (rules R2, R80 to R99,
R110). Operand fields are registers by name and immediates at the width of their field, so that every word of 16 bits
is exactly one term and every term is exactly one word. -/

namespace Sys2Proof

/-- A Lo register, R0 to R7 (rule R21). -/
inductive LoReg where
  | r0 | r1 | r2 | r3 | r4 | r5 | r6 | r7
deriving DecidableEq, Repr

/-- A Hi register, R8 to R15, named by format 5 only (rules R21, R170). R13 is SP, R14 is LR, R15 is PC (rule R22). -/
inductive HiReg where
  | r8 | r9 | r10 | r11 | r12 | r13 | r14 | r15
deriving DecidableEq, Repr

/-- The instructions and the blocks of undefined words. -/
inductive Instr where
  -- Format 1: move shifted register
  /-- LSL Rd, Rs, #Offset5 (rule R121). -/
  | lslImm (rd rs : LoReg) (imm : BitVec 5)
  /-- LSR Rd, Rs, #Offset5 (rule R122). -/
  | lsrImm (rd rs : LoReg) (imm : BitVec 5)
  /-- ASR Rd, Rs, #Offset5 (rule R123). -/
  | asrImm (rd rs : LoReg) (imm : BitVec 5)
  -- Format 2: add/subtract
  /-- ADD Rd, Rs, Rn (rule R126). -/
  | addReg (rd rs rn : LoReg)
  /-- ADD Rd, Rs, #Offset3 (rule R127). -/
  | addImm3 (rd rs : LoReg) (imm : BitVec 3)
  /-- SUB Rd, Rs, Rn (rule R128). -/
  | subReg (rd rs rn : LoReg)
  /-- SUB Rd, Rs, #Offset3 (rule R129). -/
  | subImm3 (rd rs : LoReg) (imm : BitVec 3)
  -- Format 3: move/compare/add/subtract immediate
  /-- MOV Rd, #Offset8 (rule R132). -/
  | movImm (rd : LoReg) (imm : BitVec 8)
  /-- CMP Rd, #Offset8 (rule R133). -/
  | cmpImm (rd : LoReg) (imm : BitVec 8)
  /-- ADD Rd, #Offset8 (rule R134). -/
  | addImm8 (rd : LoReg) (imm : BitVec 8)
  /-- SUB Rd, #Offset8 (rule R135). -/
  | subImm8 (rd : LoReg) (imm : BitVec 8)
  -- Format 4: ALU operations
  /-- AND Rd, Rs (format 4) (rule R141). -/
  | andReg (rd rs : LoReg)
  /-- EOR Rd, Rs (format 4) (rule R142). -/
  | eorReg (rd rs : LoReg)
  /-- LSL Rd, Rs (format 4) (rule R143). -/
  | lslReg (rd rs : LoReg)
  /-- LSR Rd, Rs (format 4) (rule R144). -/
  | lsrReg (rd rs : LoReg)
  /-- ASR Rd, Rs (format 4) (rule R145). -/
  | asrReg (rd rs : LoReg)
  /-- ADC Rd, Rs (format 4) (rule R146). -/
  | adcReg (rd rs : LoReg)
  /-- SBC Rd, Rs (format 4) (rule R147). -/
  | sbcReg (rd rs : LoReg)
  /-- ROR Rd, Rs (format 4) (rule R148). -/
  | rorReg (rd rs : LoReg)
  /-- TST Rd, Rs (format 4) (rule R149). -/
  | tstReg (rd rs : LoReg)
  /-- NEG Rd, Rs (format 4) (rule R150). -/
  | negReg (rd rs : LoReg)
  /-- CMP Rd, Rs (format 4) (rule R151). -/
  | cmpReg (rd rs : LoReg)
  /-- CMN Rd, Rs (format 4) (rule R152). -/
  | cmnReg (rd rs : LoReg)
  /-- ORR Rd, Rs (format 4) (rule R153). -/
  | orrReg (rd rs : LoReg)
  /-- MUL Rd, Rs (format 4) (rule R154). -/
  | mulReg (rd rs : LoReg)
  /-- BIC Rd, Rs (format 4) (rule R155). -/
  | bicReg (rd rs : LoReg)
  /-- MVN Rd, Rs (format 4) (rule R156). -/
  | mvnReg (rd rs : LoReg)
  -- Format 5: Hi register operations and branch exchange
  /-- ADD Rd, Hs (rule R172). -/
  | addLoHi (rd : LoReg) (hs : HiReg)
  /-- ADD Hd, Rs (rule R172). -/
  | addHiLo (hd : HiReg) (rs : LoReg)
  /-- ADD Hd, Hs (rule R172). -/
  | addHiHi (hd hs : HiReg)
  /-- CMP Rd, Hs (rule R173). -/
  | cmpLoHi (rd : LoReg) (hs : HiReg)
  /-- CMP Hd, Rs (rule R173). -/
  | cmpHiLo (hd : HiReg) (rs : LoReg)
  /-- CMP Hd, Hs (rule R173). -/
  | cmpHiHi (hd hs : HiReg)
  /-- MOV Rd, Hs (rule R174). -/
  | movLoHi (rd : LoReg) (hs : HiReg)
  /-- MOV Hd, Rs (rule R174). -/
  | movHiLo (hd : HiReg) (rs : LoReg)
  /-- MOV Hd, Hs (rule R174). -/
  | movHiHi (hd hs : HiReg)
  /-- BX Rs; `sbz` is bits 2:0 of the word, which should be zero (rule R175). -/
  | bxLo (rs : LoReg) (sbz : BitVec 3)
  /-- BX Hs; `sbz` is bits 2:0 of the word, which should be zero (rule R175). -/
  | bxHi (hs : HiReg) (sbz : BitVec 3)
  /-- the undefined words 0x4400 to 0x443F (rule R176). -/
  | undefAddLoLo (x : BitVec 6)
  /-- the unallocated words 0x4500 to 0x453F (rule R176). -/
  | undefCmpLoLo (x : BitVec 6)
  /-- the undefined words 0x4600 to 0x463F (rule R176). -/
  | undefMovLoLo (x : BitVec 6)
  /-- the undefined words 0x4780 to 0x47FF (rule R176). -/
  | undefBxH1 (x : BitVec 7)
  -- Format 6: PC-relative load
  /-- LDR Rd, [PC, #Imm] (rule R191). -/
  | ldrPc (rd : LoReg) (word8 : BitVec 8)
  -- Format 7: load/store with register offset
  /-- STR Rd, [Rb, Ro] (rule R193). -/
  | strReg (rd rb ro : LoReg)
  /-- STRB Rd, [Rb, Ro] (rule R194). -/
  | strbReg (rd rb ro : LoReg)
  /-- LDR Rd, [Rb, Ro] (rule R195). -/
  | ldrReg (rd rb ro : LoReg)
  /-- LDRB Rd, [Rb, Ro] (rule R196). -/
  | ldrbReg (rd rb ro : LoReg)
  -- Format 8: load/store sign-extended byte/halfword
  /-- STRH Rd, [Rb, Ro] (rule R198). -/
  | strhReg (rd rb ro : LoReg)
  /-- LDRH Rd, [Rb, Ro] (rule R199). -/
  | ldrhReg (rd rb ro : LoReg)
  /-- LDSB Rd, [Rb, Ro] (rule R200). -/
  | ldsbReg (rd rb ro : LoReg)
  /-- LDSH Rd, [Rb, Ro] (rule R201). -/
  | ldshReg (rd rb ro : LoReg)
  -- Format 9: load/store with immediate offset
  /-- STR Rd, [Rb, #Imm] (rule R211). -/
  | strImm (rd rb : LoReg) (off5 : BitVec 5)
  /-- LDR Rd, [Rb, #Imm] (rule R212). -/
  | ldrImm (rd rb : LoReg) (off5 : BitVec 5)
  /-- STRB Rd, [Rb, #Imm] (rule R213). -/
  | strbImm (rd rb : LoReg) (off5 : BitVec 5)
  /-- LDRB Rd, [Rb, #Imm] (rule R214). -/
  | ldrbImm (rd rb : LoReg) (off5 : BitVec 5)
  -- Format 10: load/store halfword
  /-- STRH Rd, [Rb, #Imm] (rule R216). -/
  | strhImm (rd rb : LoReg) (off5 : BitVec 5)
  /-- LDRH Rd, [Rb, #Imm] (rule R217). -/
  | ldrhImm (rd rb : LoReg) (off5 : BitVec 5)
  -- Format 11: SP-relative load/store
  /-- STR Rd, [SP, #Imm] (rule R219). -/
  | strSp (rd : LoReg) (word8 : BitVec 8)
  /-- LDR Rd, [SP, #Imm] (rule R220). -/
  | ldrSp (rd : LoReg) (word8 : BitVec 8)
  -- Format 12: load address
  /-- ADD Rd, PC, #Imm (rule R230). -/
  | addPc (rd : LoReg) (word8 : BitVec 8)
  /-- ADD Rd, SP, #Imm (rule R231). -/
  | addSpRd (rd : LoReg) (word8 : BitVec 8)
  -- Format 13: add offset to stack pointer
  /-- ADD SP, #Imm (rule R233). -/
  | addSpPos (sword7 : BitVec 7)
  /-- ADD SP, #-Imm (rule R234). -/
  | addSpNeg (sword7 : BitVec 7)
  -- Format 14: push/pop registers
  /-- PUSH {Rlist} (rule R241). -/
  | push (rlist : BitVec 8)
  /-- PUSH {Rlist, LR} (rule R242). -/
  | pushLr (rlist : BitVec 8)
  /-- POP {Rlist} (rule R243). -/
  | pop (rlist : BitVec 8)
  /-- POP {Rlist, PC} (rule R244). -/
  | popPc (rlist : BitVec 8)
  -- Format 15: multiple load/store
  /-- STMIA Rb!, {Rlist} (rule R246). -/
  | stmia (rb : LoReg) (rlist : BitVec 8)
  /-- LDMIA Rb!, {Rlist} (rule R247). -/
  | ldmia (rb : LoReg) (rlist : BitVec 8)
  -- Format 16: conditional branch
  /-- BEQ label (rule R261). -/
  | beq (soff8 : BitVec 8)
  /-- BNE label (rule R262). -/
  | bne (soff8 : BitVec 8)
  /-- BCS label (rule R263). -/
  | bcs (soff8 : BitVec 8)
  /-- BCC label (rule R264). -/
  | bcc (soff8 : BitVec 8)
  /-- BMI label (rule R265). -/
  | bmi (soff8 : BitVec 8)
  /-- BPL label (rule R266). -/
  | bpl (soff8 : BitVec 8)
  /-- BVS label (rule R267). -/
  | bvs (soff8 : BitVec 8)
  /-- BVC label (rule R268). -/
  | bvc (soff8 : BitVec 8)
  /-- BHI label (rule R269). -/
  | bhi (soff8 : BitVec 8)
  /-- BLS label (rule R270). -/
  | bls (soff8 : BitVec 8)
  /-- BGE label (rule R271). -/
  | bge (soff8 : BitVec 8)
  /-- BLT label (rule R272). -/
  | blt (soff8 : BitVec 8)
  /-- BGT label (rule R273). -/
  | bgt (soff8 : BitVec 8)
  /-- BLE label (rule R274). -/
  | ble (soff8 : BitVec 8)
  /-- the undefined words 0xDE00 to 0xDEFF (rule R275). -/
  | undefCond1110 (x : BitVec 8)
  -- Format 17: software interrupt
  /-- SWI Value8 (rule R277). -/
  | swi (value8 : BitVec 8)
  -- Format 18: unconditional branch
  /-- B label (rule R279). -/
  | b (off11 : BitVec 11)
  -- Format 19: long branch with link
  /-- BL label, first instruction (H = 0) (rule R281). -/
  | blHigh (off11 : BitVec 11)
  /-- BL label, second instruction (H = 1) (rule R282). -/
  | blLow (off11 : BitVec 11)
  -- No format
  /-- the unallocated words 0xB100 to 0xB1FF (rule R112). -/
  | undefB1 (x : BitVec 8)
  /-- the unallocated words 0xB200 to 0xB3FF (rule R112). -/
  | undefB2B3 (x : BitVec 9)
  /-- the unallocated words 0xB600 to 0xB7FF (rule R112). -/
  | undefB6B7 (x : BitVec 9)
  /-- the unallocated words 0xB800 to 0xBBFF (rule R112). -/
  | undefB8BB (x : BitVec 10)
  /-- the unallocated words 0xBE00 to 0xBFFF (rule R112). -/
  | undefBEBF (x : BitVec 9)
  /-- the unallocated words 0xE800 to 0xEFFF (rule R112). -/
  | undefE8EF (x : BitVec 11)
deriving DecidableEq, Repr

end Sys2Proof
end

