-- ==== Sys2Proof/Decode.lean ====
section
/-! DEFINITION. The decoder of instruction words, total on all 65536 of them, and the encoder (rules R80 to R112). A
word no format defines decodes to the constructor of its block of undefined words: that is how it is rejected by name. -/

namespace Sys2Proof

/-! ### Registers and fields -/

/-- The Lo register a 3-bit field names (rule R21). -/
def LoReg.ofBits (f : BitVec 3) : LoReg :=
  match f with
  | 0#3 => .r0
  | 1#3 => .r1
  | 2#3 => .r2
  | 3#3 => .r3
  | 4#3 => .r4
  | 5#3 => .r5
  | 6#3 => .r6
  | _ => .r7

/-- The 3-bit field that names a Lo register (rule R21). -/
def LoReg.toBits : LoReg → BitVec 3
  | .r0 => 0#3
  | .r1 => 1#3
  | .r2 => 2#3
  | .r3 => 3#3
  | .r4 => 4#3
  | .r5 => 5#3
  | .r6 => 6#3
  | .r7 => 7#3

/-- The Hi register numbered 8 plus a 3-bit field (rule R170). -/
def HiReg.ofBits (f : BitVec 3) : HiReg :=
  match f with
  | 0#3 => .r8
  | 1#3 => .r9
  | 2#3 => .r10
  | 3#3 => .r11
  | 4#3 => .r12
  | 5#3 => .r13
  | 6#3 => .r14
  | _ => .r15

/-- The low three bits of a Hi register's number (rule R170). -/
def HiReg.toBits : HiReg → BitVec 3
  | .r8 => 0#3
  | .r9 => 1#3
  | .r10 => 2#3
  | .r11 => 3#3
  | .r12 => 4#3
  | .r13 => 5#3
  | .r14 => 6#3
  | .r15 => 7#3

/-- The field of `len` bits whose lowest bit is bit `lo` (rule R7). -/
def field (w : Half) (lo len : Nat) : BitVec len :=
  w.extractLsb' lo len

/-- The Lo register named by the field at bits `lo + 2` down to `lo`. -/
def loAt (w : Half) (lo : Nat) : LoReg :=
  LoReg.ofBits (field w lo 3)

/-- The Hi register named by the field at bits `lo + 2` down to `lo`. -/
def hiAt (w : Half) (lo : Nat) : HiReg :=
  HiReg.ofBits (field w lo 3)

/-- Whether register Ri is in a register list: bit i of the list (rule R109). -/
def inList (rlist : BitVec 8) (r : LoReg) : Bool :=
  rlist.getLsbD r.toBits.toNat

/-- The list of an STMIA holds its base register, and a lower register too (rules R246, R248). -/
def baseNotLowest (rb : LoReg) (rlist : BitVec 8) : Bool :=
  inList rlist rb && (rlist &&& ((1#8 <<< rb.toBits.toNat) - 1#8)) != 0#8

/-! ### The decoder -/

/-- Format 4 by its Op field, bits 9:6 (rule R84). -/
def decodeAlu (w : Half) : Instr :=
  match field w 6 4 with
  | 0b0000#4 => .andReg (loAt w 0) (loAt w 3)
  | 0b0001#4 => .eorReg (loAt w 0) (loAt w 3)
  | 0b0010#4 => .lslReg (loAt w 0) (loAt w 3)
  | 0b0011#4 => .lsrReg (loAt w 0) (loAt w 3)
  | 0b0100#4 => .asrReg (loAt w 0) (loAt w 3)
  | 0b0101#4 => .adcReg (loAt w 0) (loAt w 3)
  | 0b0110#4 => .sbcReg (loAt w 0) (loAt w 3)
  | 0b0111#4 => .rorReg (loAt w 0) (loAt w 3)
  | 0b1000#4 => .tstReg (loAt w 0) (loAt w 3)
  | 0b1001#4 => .negReg (loAt w 0) (loAt w 3)
  | 0b1010#4 => .cmpReg (loAt w 0) (loAt w 3)
  | 0b1011#4 => .cmnReg (loAt w 0) (loAt w 3)
  | 0b1100#4 => .orrReg (loAt w 0) (loAt w 3)
  | 0b1101#4 => .mulReg (loAt w 0) (loAt w 3)
  | 0b1110#4 => .bicReg (loAt w 0) (loAt w 3)
  | _ => .mvnReg (loAt w 0) (loAt w 3)

/-- Format 5 by Op, H1 and H2, bits 9:6 (rules R85, R170, R176). -/
def decodeHi (w : Half) : Instr :=
  match field w 6 4 with
  | 0b0000#4 => .undefAddLoLo (field w 0 6)
  | 0b0001#4 => .addLoHi (loAt w 0) (hiAt w 3)
  | 0b0010#4 => .addHiLo (hiAt w 0) (loAt w 3)
  | 0b0011#4 => .addHiHi (hiAt w 0) (hiAt w 3)
  | 0b0100#4 => .undefCmpLoLo (field w 0 6)
  | 0b0101#4 => .cmpLoHi (loAt w 0) (hiAt w 3)
  | 0b0110#4 => .cmpHiLo (hiAt w 0) (loAt w 3)
  | 0b0111#4 => .cmpHiHi (hiAt w 0) (hiAt w 3)
  | 0b1000#4 => .undefMovLoLo (field w 0 6)
  | 0b1001#4 => .movLoHi (loAt w 0) (hiAt w 3)
  | 0b1010#4 => .movHiLo (hiAt w 0) (loAt w 3)
  | 0b1011#4 => .movHiHi (hiAt w 0) (hiAt w 3)
  | 0b1100#4 => .bxLo (loAt w 3) (field w 0 3)
  | 0b1101#4 => .bxHi (hiAt w 3) (field w 0 3)
  | _ => .undefBxH1 (field w 0 7)

/-- The words whose top four bits are 0101: formats 7 and 8 by bits 11:9 (rules R87, R88). -/
def decodeRegOffset (w : Half) : Instr :=
  match field w 9 3 with
  | 0b000#3 => .strReg (loAt w 0) (loAt w 3) (loAt w 6)
  | 0b001#3 => .strhReg (loAt w 0) (loAt w 3) (loAt w 6)
  | 0b010#3 => .strbReg (loAt w 0) (loAt w 3) (loAt w 6)
  | 0b011#3 => .ldsbReg (loAt w 0) (loAt w 3) (loAt w 6)
  | 0b100#3 => .ldrReg (loAt w 0) (loAt w 3) (loAt w 6)
  | 0b101#3 => .ldrhReg (loAt w 0) (loAt w 3) (loAt w 6)
  | 0b110#3 => .ldrbReg (loAt w 0) (loAt w 3) (loAt w 6)
  | _ => .ldshReg (loAt w 0) (loAt w 3) (loAt w 6)

/-- The words whose top four bits are 1011: formats 13 and 14 and the words neither claims, by bits 11:8
(rules R93, R94, R112). -/
def decodeMisc (w : Half) : Instr :=
  match field w 8 4 with
  | 0b0000#4 => if field w 7 1 = 0#1 then .addSpPos (field w 0 7) else .addSpNeg (field w 0 7)
  | 0b0001#4 => .undefB1 (field w 0 8)
  | 0b0010#4 => .undefB2B3 (field w 0 9)
  | 0b0011#4 => .undefB2B3 (field w 0 9)
  | 0b0100#4 => .push (field w 0 8)
  | 0b0101#4 => .pushLr (field w 0 8)
  | 0b0110#4 => .undefB6B7 (field w 0 9)
  | 0b0111#4 => .undefB6B7 (field w 0 9)
  | 0b1100#4 => .pop (field w 0 8)
  | 0b1101#4 => .popPc (field w 0 8)
  | 0b1110#4 => .undefBEBF (field w 0 9)
  | 0b1111#4 => .undefBEBF (field w 0 9)
  | _ => .undefB8BB (field w 0 10)

/-- The words whose top four bits are 1101: format 16 by Cond, bits 11:8, and format 17 (rules R96, R97, R275). -/
def decodeCond (w : Half) : Instr :=
  match field w 8 4 with
  | 0b0000#4 => .beq (field w 0 8)
  | 0b0001#4 => .bne (field w 0 8)
  | 0b0010#4 => .bcs (field w 0 8)
  | 0b0011#4 => .bcc (field w 0 8)
  | 0b0100#4 => .bmi (field w 0 8)
  | 0b0101#4 => .bpl (field w 0 8)
  | 0b0110#4 => .bvs (field w 0 8)
  | 0b0111#4 => .bvc (field w 0 8)
  | 0b1000#4 => .bhi (field w 0 8)
  | 0b1001#4 => .bls (field w 0 8)
  | 0b1010#4 => .bge (field w 0 8)
  | 0b1011#4 => .blt (field w 0 8)
  | 0b1100#4 => .bgt (field w 0 8)
  | 0b1101#4 => .ble (field w 0 8)
  | 0b1110#4 => .undefCond1110 (field w 0 8)
  | _ => .swi (field w 0 8)

/-- Format 2 by I and Op, bits 10:9 (rule R82). -/
def decodeAddSub (w : Half) : Instr :=
  match field w 9 2 with
  | 0b00#2 => .addReg (loAt w 0) (loAt w 3) (loAt w 6)
  | 0b10#2 => .addImm3 (loAt w 0) (loAt w 3) (field w 6 3)
  | 0b01#2 => .subReg (loAt w 0) (loAt w 3) (loAt w 6)
  | _ => .subImm3 (loAt w 0) (loAt w 3) (field w 6 3)

/-- The instruction a word is: by its top five bits, then by the bits the format names (rule R110). -/
def decode (w : Half) : Instr :=
  match field w 11 5 with
  | 0b00000#5 => .lslImm (loAt w 0) (loAt w 3) (field w 6 5)
  | 0b00001#5 => .lsrImm (loAt w 0) (loAt w 3) (field w 6 5)
  | 0b00010#5 => .asrImm (loAt w 0) (loAt w 3) (field w 6 5)
  | 0b00011#5 => decodeAddSub w
  | 0b00100#5 => .movImm (loAt w 8) (field w 0 8)
  | 0b00101#5 => .cmpImm (loAt w 8) (field w 0 8)
  | 0b00110#5 => .addImm8 (loAt w 8) (field w 0 8)
  | 0b00111#5 => .subImm8 (loAt w 8) (field w 0 8)
  | 0b01000#5 => if field w 10 1 = 0#1 then decodeAlu w else decodeHi w
  | 0b01001#5 => .ldrPc (loAt w 8) (field w 0 8)
  | 0b01010#5 => decodeRegOffset w
  | 0b01011#5 => decodeRegOffset w
  | 0b01100#5 => .strImm (loAt w 0) (loAt w 3) (field w 6 5)
  | 0b01101#5 => .ldrImm (loAt w 0) (loAt w 3) (field w 6 5)
  | 0b01110#5 => .strbImm (loAt w 0) (loAt w 3) (field w 6 5)
  | 0b01111#5 => .ldrbImm (loAt w 0) (loAt w 3) (field w 6 5)
  | 0b10000#5 => .strhImm (loAt w 0) (loAt w 3) (field w 6 5)
  | 0b10001#5 => .ldrhImm (loAt w 0) (loAt w 3) (field w 6 5)
  | 0b10010#5 => .strSp (loAt w 8) (field w 0 8)
  | 0b10011#5 => .ldrSp (loAt w 8) (field w 0 8)
  | 0b10100#5 => .addPc (loAt w 8) (field w 0 8)
  | 0b10101#5 => .addSpRd (loAt w 8) (field w 0 8)
  | 0b10110#5 => decodeMisc w
  | 0b10111#5 => decodeMisc w
  | 0b11000#5 => .stmia (loAt w 8) (field w 0 8)
  | 0b11001#5 => .ldmia (loAt w 8) (field w 0 8)
  | 0b11010#5 => decodeCond w
  | 0b11011#5 => decodeCond w
  | 0b11100#5 => .b (field w 0 11)
  | 0b11101#5 => .undefE8EF (field w 0 11)
  | 0b11110#5 => .blHigh (field w 0 11)
  | _ => .blLow (field w 0 11)

/-- The instruction at the head of a list of bytes, and the bytes after it; none when fewer than two bytes are there
(rules R52, R80). -/
def decodeBytes (e : Endian) : List Byte → Option (Instr × List Byte)
  | b0 :: b1 :: rest => some (decode (BitVec.ofNat 16 (joinBytes e [b0, b1])), rest)
  | _ => none

/-- The instruction the decoder reads from a row's bits, laid out in memory in the default byte order. -/
def decodeTableWord (nbits w : Nat) : Option Instr :=
  if nbits ≤ 16 then
    (decodeBytes .little (splitBytes .little 2 (w % 2 ^ nbits))).map Prod.fst
  else none

/-! ### The encoder -/

/-- The word of an instruction, its fixed bits and fields from bit 15 down (rules R81 to R99, R111, R112). -/
def encode : Instr → Half
  | .lslImm rd rs imm => 0b000#3 ++ 0b00#2 ++ imm ++ rs.toBits ++ rd.toBits
  | .lsrImm rd rs imm => 0b000#3 ++ 0b01#2 ++ imm ++ rs.toBits ++ rd.toBits
  | .asrImm rd rs imm => 0b000#3 ++ 0b10#2 ++ imm ++ rs.toBits ++ rd.toBits
  | .addReg rd rs rn => 0b00011#5 ++ 0b0#1 ++ 0b0#1 ++ rn.toBits ++ rs.toBits ++ rd.toBits
  | .addImm3 rd rs imm => 0b00011#5 ++ 0b1#1 ++ 0b0#1 ++ imm ++ rs.toBits ++ rd.toBits
  | .subReg rd rs rn => 0b00011#5 ++ 0b0#1 ++ 0b1#1 ++ rn.toBits ++ rs.toBits ++ rd.toBits
  | .subImm3 rd rs imm => 0b00011#5 ++ 0b1#1 ++ 0b1#1 ++ imm ++ rs.toBits ++ rd.toBits
  | .movImm rd imm => 0b001#3 ++ 0b00#2 ++ rd.toBits ++ imm
  | .cmpImm rd imm => 0b001#3 ++ 0b01#2 ++ rd.toBits ++ imm
  | .addImm8 rd imm => 0b001#3 ++ 0b10#2 ++ rd.toBits ++ imm
  | .subImm8 rd imm => 0b001#3 ++ 0b11#2 ++ rd.toBits ++ imm
  | .andReg rd rs => 0b010000#6 ++ 0b0000#4 ++ rs.toBits ++ rd.toBits
  | .eorReg rd rs => 0b010000#6 ++ 0b0001#4 ++ rs.toBits ++ rd.toBits
  | .lslReg rd rs => 0b010000#6 ++ 0b0010#4 ++ rs.toBits ++ rd.toBits
  | .lsrReg rd rs => 0b010000#6 ++ 0b0011#4 ++ rs.toBits ++ rd.toBits
  | .asrReg rd rs => 0b010000#6 ++ 0b0100#4 ++ rs.toBits ++ rd.toBits
  | .adcReg rd rs => 0b010000#6 ++ 0b0101#4 ++ rs.toBits ++ rd.toBits
  | .sbcReg rd rs => 0b010000#6 ++ 0b0110#4 ++ rs.toBits ++ rd.toBits
  | .rorReg rd rs => 0b010000#6 ++ 0b0111#4 ++ rs.toBits ++ rd.toBits
  | .tstReg rd rs => 0b010000#6 ++ 0b1000#4 ++ rs.toBits ++ rd.toBits
  | .negReg rd rs => 0b010000#6 ++ 0b1001#4 ++ rs.toBits ++ rd.toBits
  | .cmpReg rd rs => 0b010000#6 ++ 0b1010#4 ++ rs.toBits ++ rd.toBits
  | .cmnReg rd rs => 0b010000#6 ++ 0b1011#4 ++ rs.toBits ++ rd.toBits
  | .orrReg rd rs => 0b010000#6 ++ 0b1100#4 ++ rs.toBits ++ rd.toBits
  | .mulReg rd rs => 0b010000#6 ++ 0b1101#4 ++ rs.toBits ++ rd.toBits
  | .bicReg rd rs => 0b010000#6 ++ 0b1110#4 ++ rs.toBits ++ rd.toBits
  | .mvnReg rd rs => 0b010000#6 ++ 0b1111#4 ++ rs.toBits ++ rd.toBits
  | .addLoHi rd hs => 0b010001#6 ++ 0b00#2 ++ 0b0#1 ++ 0b1#1 ++ hs.toBits ++ rd.toBits
  | .addHiLo hd rs => 0b010001#6 ++ 0b00#2 ++ 0b1#1 ++ 0b0#1 ++ rs.toBits ++ hd.toBits
  | .addHiHi hd hs => 0b010001#6 ++ 0b00#2 ++ 0b1#1 ++ 0b1#1 ++ hs.toBits ++ hd.toBits
  | .cmpLoHi rd hs => 0b010001#6 ++ 0b01#2 ++ 0b0#1 ++ 0b1#1 ++ hs.toBits ++ rd.toBits
  | .cmpHiLo hd rs => 0b010001#6 ++ 0b01#2 ++ 0b1#1 ++ 0b0#1 ++ rs.toBits ++ hd.toBits
  | .cmpHiHi hd hs => 0b010001#6 ++ 0b01#2 ++ 0b1#1 ++ 0b1#1 ++ hs.toBits ++ hd.toBits
  | .movLoHi rd hs => 0b010001#6 ++ 0b10#2 ++ 0b0#1 ++ 0b1#1 ++ hs.toBits ++ rd.toBits
  | .movHiLo hd rs => 0b010001#6 ++ 0b10#2 ++ 0b1#1 ++ 0b0#1 ++ rs.toBits ++ hd.toBits
  | .movHiHi hd hs => 0b010001#6 ++ 0b10#2 ++ 0b1#1 ++ 0b1#1 ++ hs.toBits ++ hd.toBits
  | .bxLo rs sbz => 0b010001#6 ++ 0b11#2 ++ 0b0#1 ++ 0b0#1 ++ rs.toBits ++ sbz
  | .bxHi hs sbz => 0b010001#6 ++ 0b11#2 ++ 0b0#1 ++ 0b1#1 ++ hs.toBits ++ sbz
  | .undefAddLoLo x => 0b010001#6 ++ 0b00#2 ++ 0b00#2 ++ x
  | .undefCmpLoLo x => 0b010001#6 ++ 0b01#2 ++ 0b00#2 ++ x
  | .undefMovLoLo x => 0b010001#6 ++ 0b10#2 ++ 0b00#2 ++ x
  | .undefBxH1 x => 0b010001#6 ++ 0b11#2 ++ 0b1#1 ++ x
  | .ldrPc rd word8 => 0b01001#5 ++ rd.toBits ++ word8
  | .strReg rd rb ro => 0b0101#4 ++ 0b000#3 ++ ro.toBits ++ rb.toBits ++ rd.toBits
  | .strbReg rd rb ro => 0b0101#4 ++ 0b010#3 ++ ro.toBits ++ rb.toBits ++ rd.toBits
  | .ldrReg rd rb ro => 0b0101#4 ++ 0b100#3 ++ ro.toBits ++ rb.toBits ++ rd.toBits
  | .ldrbReg rd rb ro => 0b0101#4 ++ 0b110#3 ++ ro.toBits ++ rb.toBits ++ rd.toBits
  | .strhReg rd rb ro => 0b0101#4 ++ 0b001#3 ++ ro.toBits ++ rb.toBits ++ rd.toBits
  | .ldrhReg rd rb ro => 0b0101#4 ++ 0b101#3 ++ ro.toBits ++ rb.toBits ++ rd.toBits
  | .ldsbReg rd rb ro => 0b0101#4 ++ 0b011#3 ++ ro.toBits ++ rb.toBits ++ rd.toBits
  | .ldshReg rd rb ro => 0b0101#4 ++ 0b111#3 ++ ro.toBits ++ rb.toBits ++ rd.toBits
  | .strImm rd rb off5 => 0b011#3 ++ 0b00#2 ++ off5 ++ rb.toBits ++ rd.toBits
  | .ldrImm rd rb off5 => 0b011#3 ++ 0b01#2 ++ off5 ++ rb.toBits ++ rd.toBits
  | .strbImm rd rb off5 => 0b011#3 ++ 0b10#2 ++ off5 ++ rb.toBits ++ rd.toBits
  | .ldrbImm rd rb off5 => 0b011#3 ++ 0b11#2 ++ off5 ++ rb.toBits ++ rd.toBits
  | .strhImm rd rb off5 => 0b1000#4 ++ 0b0#1 ++ off5 ++ rb.toBits ++ rd.toBits
  | .ldrhImm rd rb off5 => 0b1000#4 ++ 0b1#1 ++ off5 ++ rb.toBits ++ rd.toBits
  | .strSp rd word8 => 0b1001#4 ++ 0b0#1 ++ rd.toBits ++ word8
  | .ldrSp rd word8 => 0b1001#4 ++ 0b1#1 ++ rd.toBits ++ word8
  | .addPc rd word8 => 0b1010#4 ++ 0b0#1 ++ rd.toBits ++ word8
  | .addSpRd rd word8 => 0b1010#4 ++ 0b1#1 ++ rd.toBits ++ word8
  | .addSpPos sword7 => 0b10110000#8 ++ 0b0#1 ++ sword7
  | .addSpNeg sword7 => 0b10110000#8 ++ 0b1#1 ++ sword7
  | .push rlist => 0b1011#4 ++ 0b0#1 ++ 0b10#2 ++ 0b0#1 ++ rlist
  | .pushLr rlist => 0b1011#4 ++ 0b0#1 ++ 0b10#2 ++ 0b1#1 ++ rlist
  | .pop rlist => 0b1011#4 ++ 0b1#1 ++ 0b10#2 ++ 0b0#1 ++ rlist
  | .popPc rlist => 0b1011#4 ++ 0b1#1 ++ 0b10#2 ++ 0b1#1 ++ rlist
  | .stmia rb rlist => 0b1100#4 ++ 0b0#1 ++ rb.toBits ++ rlist
  | .ldmia rb rlist => 0b1100#4 ++ 0b1#1 ++ rb.toBits ++ rlist
  | .beq soff8 => 0b1101#4 ++ 0b0000#4 ++ soff8
  | .bne soff8 => 0b1101#4 ++ 0b0001#4 ++ soff8
  | .bcs soff8 => 0b1101#4 ++ 0b0010#4 ++ soff8
  | .bcc soff8 => 0b1101#4 ++ 0b0011#4 ++ soff8
  | .bmi soff8 => 0b1101#4 ++ 0b0100#4 ++ soff8
  | .bpl soff8 => 0b1101#4 ++ 0b0101#4 ++ soff8
  | .bvs soff8 => 0b1101#4 ++ 0b0110#4 ++ soff8
  | .bvc soff8 => 0b1101#4 ++ 0b0111#4 ++ soff8
  | .bhi soff8 => 0b1101#4 ++ 0b1000#4 ++ soff8
  | .bls soff8 => 0b1101#4 ++ 0b1001#4 ++ soff8
  | .bge soff8 => 0b1101#4 ++ 0b1010#4 ++ soff8
  | .blt soff8 => 0b1101#4 ++ 0b1011#4 ++ soff8
  | .bgt soff8 => 0b1101#4 ++ 0b1100#4 ++ soff8
  | .ble soff8 => 0b1101#4 ++ 0b1101#4 ++ soff8
  | .undefCond1110 x => 0b1101#4 ++ 0b1110#4 ++ x
  | .swi value8 => 0b11011111#8 ++ value8
  | .b off11 => 0b11100#5 ++ off11
  | .blHigh off11 => 0b1111#4 ++ 0b0#1 ++ off11
  | .blLow off11 => 0b1111#4 ++ 0b1#1 ++ off11
  | .undefB1 x => 0b10110001#8 ++ x
  | .undefB2B3 x => 0b1011001#7 ++ x
  | .undefB6B7 x => 0b1011011#7 ++ x
  | .undefB8BB x => 0b101110#6 ++ x
  | .undefBEBF x => 0b1011111#7 ++ x
  | .undefE8EF x => 0b11101#5 ++ x

/-- The row of the opcode table an instruction belongs to: its mask and its match value (rule R110). -/
def Instr.tableRow : Instr → Half × Half
  | .lslImm _ _ _ => (0xF800#16, 0x0000#16)
  | .lsrImm _ _ _ => (0xF800#16, 0x0800#16)
  | .asrImm _ _ _ => (0xF800#16, 0x1000#16)
  | .addReg _ _ _ => (0xFE00#16, 0x1800#16)
  | .addImm3 _ _ _ => (0xFE00#16, 0x1C00#16)
  | .subReg _ _ _ => (0xFE00#16, 0x1A00#16)
  | .subImm3 _ _ _ => (0xFE00#16, 0x1E00#16)
  | .movImm _ _ => (0xF800#16, 0x2000#16)
  | .cmpImm _ _ => (0xF800#16, 0x2800#16)
  | .addImm8 _ _ => (0xF800#16, 0x3000#16)
  | .subImm8 _ _ => (0xF800#16, 0x3800#16)
  | .andReg _ _ => (0xFFC0#16, 0x4000#16)
  | .eorReg _ _ => (0xFFC0#16, 0x4040#16)
  | .lslReg _ _ => (0xFFC0#16, 0x4080#16)
  | .lsrReg _ _ => (0xFFC0#16, 0x40C0#16)
  | .asrReg _ _ => (0xFFC0#16, 0x4100#16)
  | .adcReg _ _ => (0xFFC0#16, 0x4140#16)
  | .sbcReg _ _ => (0xFFC0#16, 0x4180#16)
  | .rorReg _ _ => (0xFFC0#16, 0x41C0#16)
  | .tstReg _ _ => (0xFFC0#16, 0x4200#16)
  | .negReg _ _ => (0xFFC0#16, 0x4240#16)
  | .cmpReg _ _ => (0xFFC0#16, 0x4280#16)
  | .cmnReg _ _ => (0xFFC0#16, 0x42C0#16)
  | .orrReg _ _ => (0xFFC0#16, 0x4300#16)
  | .mulReg _ _ => (0xFFC0#16, 0x4340#16)
  | .bicReg _ _ => (0xFFC0#16, 0x4380#16)
  | .mvnReg _ _ => (0xFFC0#16, 0x43C0#16)
  | .addLoHi _ _ => (0xFFC0#16, 0x4440#16)
  | .addHiLo _ _ => (0xFFC0#16, 0x4480#16)
  | .addHiHi _ _ => (0xFFC0#16, 0x44C0#16)
  | .cmpLoHi _ _ => (0xFFC0#16, 0x4540#16)
  | .cmpHiLo _ _ => (0xFFC0#16, 0x4580#16)
  | .cmpHiHi _ _ => (0xFFC0#16, 0x45C0#16)
  | .movLoHi _ _ => (0xFFC0#16, 0x4640#16)
  | .movHiLo _ _ => (0xFFC0#16, 0x4680#16)
  | .movHiHi _ _ => (0xFFC0#16, 0x46C0#16)
  | .bxLo _ _ => (0xFFC0#16, 0x4700#16)
  | .bxHi _ _ => (0xFFC0#16, 0x4740#16)
  | .undefAddLoLo _ => (0xFFC0#16, 0x4400#16)
  | .undefCmpLoLo _ => (0xFFC0#16, 0x4500#16)
  | .undefMovLoLo _ => (0xFFC0#16, 0x4600#16)
  | .undefBxH1 _ => (0xFF80#16, 0x4780#16)
  | .ldrPc _ _ => (0xF800#16, 0x4800#16)
  | .strReg _ _ _ => (0xFE00#16, 0x5000#16)
  | .strbReg _ _ _ => (0xFE00#16, 0x5400#16)
  | .ldrReg _ _ _ => (0xFE00#16, 0x5800#16)
  | .ldrbReg _ _ _ => (0xFE00#16, 0x5C00#16)
  | .strhReg _ _ _ => (0xFE00#16, 0x5200#16)
  | .ldrhReg _ _ _ => (0xFE00#16, 0x5A00#16)
  | .ldsbReg _ _ _ => (0xFE00#16, 0x5600#16)
  | .ldshReg _ _ _ => (0xFE00#16, 0x5E00#16)
  | .strImm _ _ _ => (0xF800#16, 0x6000#16)
  | .ldrImm _ _ _ => (0xF800#16, 0x6800#16)
  | .strbImm _ _ _ => (0xF800#16, 0x7000#16)
  | .ldrbImm _ _ _ => (0xF800#16, 0x7800#16)
  | .strhImm _ _ _ => (0xF800#16, 0x8000#16)
  | .ldrhImm _ _ _ => (0xF800#16, 0x8800#16)
  | .strSp _ _ => (0xF800#16, 0x9000#16)
  | .ldrSp _ _ => (0xF800#16, 0x9800#16)
  | .addPc _ _ => (0xF800#16, 0xA000#16)
  | .addSpRd _ _ => (0xF800#16, 0xA800#16)
  | .addSpPos _ => (0xFF80#16, 0xB000#16)
  | .addSpNeg _ => (0xFF80#16, 0xB080#16)
  | .push _ => (0xFF00#16, 0xB400#16)
  | .pushLr _ => (0xFF00#16, 0xB500#16)
  | .pop _ => (0xFF00#16, 0xBC00#16)
  | .popPc _ => (0xFF00#16, 0xBD00#16)
  | .stmia _ _ => (0xF800#16, 0xC000#16)
  | .ldmia _ _ => (0xF800#16, 0xC800#16)
  | .beq _ => (0xFF00#16, 0xD000#16)
  | .bne _ => (0xFF00#16, 0xD100#16)
  | .bcs _ => (0xFF00#16, 0xD200#16)
  | .bcc _ => (0xFF00#16, 0xD300#16)
  | .bmi _ => (0xFF00#16, 0xD400#16)
  | .bpl _ => (0xFF00#16, 0xD500#16)
  | .bvs _ => (0xFF00#16, 0xD600#16)
  | .bvc _ => (0xFF00#16, 0xD700#16)
  | .bhi _ => (0xFF00#16, 0xD800#16)
  | .bls _ => (0xFF00#16, 0xD900#16)
  | .bge _ => (0xFF00#16, 0xDA00#16)
  | .blt _ => (0xFF00#16, 0xDB00#16)
  | .bgt _ => (0xFF00#16, 0xDC00#16)
  | .ble _ => (0xFF00#16, 0xDD00#16)
  | .undefCond1110 _ => (0xFF00#16, 0xDE00#16)
  | .swi _ => (0xFF00#16, 0xDF00#16)
  | .b _ => (0xF800#16, 0xE000#16)
  | .blHigh _ => (0xF800#16, 0xF000#16)
  | .blLow _ => (0xF800#16, 0xF800#16)
  | .undefB1 _ => (0xFF00#16, 0xB100#16)
  | .undefB2B3 _ => (0xFE00#16, 0xB200#16)
  | .undefB6B7 _ => (0xFE00#16, 0xB600#16)
  | .undefB8BB _ => (0xFC00#16, 0xB800#16)
  | .undefBEBF _ => (0xFE00#16, 0xBE00#16)
  | .undefE8EF _ => (0xF800#16, 0xE800#16)

/-- The constructors that stand for undefined or unallocated words (rules R111, R112, R176, R275). -/
def Instr.isUndefined : Instr → Bool
  | .lslImm _ _ _ => false
  | .lsrImm _ _ _ => false
  | .asrImm _ _ _ => false
  | .addReg _ _ _ => false
  | .addImm3 _ _ _ => false
  | .subReg _ _ _ => false
  | .subImm3 _ _ _ => false
  | .movImm _ _ => false
  | .cmpImm _ _ => false
  | .addImm8 _ _ => false
  | .subImm8 _ _ => false
  | .andReg _ _ => false
  | .eorReg _ _ => false
  | .lslReg _ _ => false
  | .lsrReg _ _ => false
  | .asrReg _ _ => false
  | .adcReg _ _ => false
  | .sbcReg _ _ => false
  | .rorReg _ _ => false
  | .tstReg _ _ => false
  | .negReg _ _ => false
  | .cmpReg _ _ => false
  | .cmnReg _ _ => false
  | .orrReg _ _ => false
  | .mulReg _ _ => false
  | .bicReg _ _ => false
  | .mvnReg _ _ => false
  | .addLoHi _ _ => false
  | .addHiLo _ _ => false
  | .addHiHi _ _ => false
  | .cmpLoHi _ _ => false
  | .cmpHiLo _ _ => false
  | .cmpHiHi _ _ => false
  | .movLoHi _ _ => false
  | .movHiLo _ _ => false
  | .movHiHi _ _ => false
  | .bxLo _ _ => false
  | .bxHi _ _ => false
  | .undefAddLoLo _ => true
  | .undefCmpLoLo _ => true
  | .undefMovLoLo _ => true
  | .undefBxH1 _ => true
  | .ldrPc _ _ => false
  | .strReg _ _ _ => false
  | .strbReg _ _ _ => false
  | .ldrReg _ _ _ => false
  | .ldrbReg _ _ _ => false
  | .strhReg _ _ _ => false
  | .ldrhReg _ _ _ => false
  | .ldsbReg _ _ _ => false
  | .ldshReg _ _ _ => false
  | .strImm _ _ _ => false
  | .ldrImm _ _ _ => false
  | .strbImm _ _ _ => false
  | .ldrbImm _ _ _ => false
  | .strhImm _ _ _ => false
  | .ldrhImm _ _ _ => false
  | .strSp _ _ => false
  | .ldrSp _ _ => false
  | .addPc _ _ => false
  | .addSpRd _ _ => false
  | .addSpPos _ => false
  | .addSpNeg _ => false
  | .push _ => false
  | .pushLr _ => false
  | .pop _ => false
  | .popPc _ => false
  | .stmia _ _ => false
  | .ldmia _ _ => false
  | .beq _ => false
  | .bne _ => false
  | .bcs _ => false
  | .bcc _ => false
  | .bmi _ => false
  | .bpl _ => false
  | .bvs _ => false
  | .bvc _ => false
  | .bhi _ => false
  | .bls _ => false
  | .bge _ => false
  | .blt _ => false
  | .bgt _ => false
  | .ble _ => false
  | .undefCond1110 _ => true
  | .swi _ => false
  | .b _ => false
  | .blHigh _ => false
  | .blLow _ => false
  | .undefB1 _ => true
  | .undefB2B3 _ => true
  | .undefB6B7 _ => true
  | .undefB8BB _ => true
  | .undefBEBF _ => true
  | .undefE8EF _ => true

end Sys2Proof
end

