-- ==== Sys2Proof/Config.lean ====
section
/-! DEFINITION. What an implementation fixes, and the one free value of the spec (rules R6, R154, R301). -/

namespace Sys2Proof.Config

/-- The software-interrupt vector: "the SWI vector address (0x8)" (rules R60, R301). -/
def swiVector : Word := 0x00000008#32

/-- What an address that the memory does not list reads as. DESIGN CHOICE, unsafe: rule R51 makes the
initial memory a parameter and gives no value (log entry 6). -/
def unlistedByte : Byte := 0#8

/-- The carry after MUL: one unspecified bit per execution (rule R154, decision D9). It has no body, so a
statement that mentions C after MUL holds for both values of the bit (log entry 10). -/
opaque mulCarryDraw : Nat → Bool

end Sys2Proof.Config
end

