-- ==== Sys2Proof/Machine/State.lean ====
section
/-! DEFINITION. The state of the machine, the reasons a step can stop, and the state after reset (rules R20 to R40, R50
to R55, R66, R300, R330, R331). -/

namespace Sys2Proof.Machine

/-! ### Modes and status registers -/

/-- The processor modes of the CPSR's M field (rules R33, R36; PRESUMED, the spec's GK2 and GK3, log entry 14). -/
inductive Mode where
  | usr
  | fiq
  | irq
  | svc
  | abt
  | und
  | sys
deriving DecidableEq, Repr

/-- The modes an exception can enter: those with an R13, an R14 and an SPSR of their own (rule R24). -/
inductive ExcMode where
  | fiq
  | irq
  | svc
  | abt
  | und
deriving DecidableEq, Repr

/-- A program status register by its fields (rules R29, R33). The layout in 32 bits is `Psr.toWord`. -/
structure Psr where
  /-- Bit 31, negative. -/
  n : Bool
  /-- Bit 30, zero. -/
  z : Bool
  /-- Bit 29, carry. -/
  c : Bool
  /-- Bit 28, overflow. -/
  v : Bool
  /-- Bits 27:8, with no defined meaning; never written. -/
  reserved : BitVec 20
  /-- Bit 7, IRQ disabled. -/
  i : Bool
  /-- Bit 6, FIQ disabled. -/
  f : Bool
  /-- Bit 5, the processor state: THUMB when set, ARM when clear (rule R34). -/
  t : Bool
  /-- Bits 4:0. -/
  mode : Mode
deriving DecidableEq, Repr

/-- The saved program status registers, one per exception mode (rules R24, R35). -/
structure SpsrFile where
  fiq : Psr
  irq : Psr
  svc : Psr
  abt : Psr
  und : Psr
deriving DecidableEq, Repr

/-! ### General registers -/

/-- The physical registers behind R0 to R14: one home for every banked copy (rules R20, R24). -/
inductive PReg where
  | r0 | r1 | r2 | r3 | r4 | r5 | r6 | r7
  | r8 | r9 | r10 | r11 | r12
  | r8Fiq | r9Fiq | r10Fiq | r11Fiq | r12Fiq
  | r13Usr | r14Usr | r13Fiq | r14Fiq | r13Irq | r14Irq | r13Svc | r14Svc | r13Abt | r14Abt | r13Und | r14Und
deriving DecidableEq, Repr

/-- The physical registers' contents. None is hardwired (rule R23). -/
structure RegFile where
  r0 : Word
  r1 : Word
  r2 : Word
  r3 : Word
  r4 : Word
  r5 : Word
  r6 : Word
  r7 : Word
  r8 : Word
  r9 : Word
  r10 : Word
  r11 : Word
  r12 : Word
  r8Fiq : Word
  r9Fiq : Word
  r10Fiq : Word
  r11Fiq : Word
  r12Fiq : Word
  r13Usr : Word
  r14Usr : Word
  r13Fiq : Word
  r14Fiq : Word
  r13Irq : Word
  r14Irq : Word
  r13Svc : Word
  r14Svc : Word
  r13Abt : Word
  r14Abt : Word
  r13Und : Word
  r14Und : Word
deriving DecidableEq, Repr

/-! ### The platform's parameters -/

/-- The kind of an access (rule R55). -/
inductive AccessKind where
  | read
  | write
  | fetch
deriving DecidableEq, Repr

/-- One clause of `MemAdmit`: accesses of these widths and kinds whose bytes all lie from `first` to `last` are
admitted (rule R55). -/
structure Region where
  first : Nat
  last : Nat
  widths : List Width
  kinds : List AccessKind
deriving DecidableEq, Repr

/-- A run of addresses, both ends included; `CODE_RANGE` is a list of them (rule R66). -/
structure AddrRange where
  first : Nat
  last : Nat
deriving DecidableEq, Repr

/-! ### Ways out of THUMB state -/

/-- The two outcomes of rule R300 in which an instruction completes and leaves THUMB state, each with the value the
rule records (rules R300, R301, R306). -/
inductive ThumbExit where
  /-- `SoftwareInterrupt(value8)`: SWI was executed (rule R277). -/
  | softwareInterrupt (value8 : BitVec 8)
  /-- `EnterARMState(target)`: BX went to a target with bit 0 clear (rule R175). -/
  | enterArmState (target : Word)
deriving DecidableEq, Repr

/-! ### The state -/

/-- Byte-addressed memory as (address, byte) pairs at strictly rising addresses, listing no byte equal to
`Config.unlistedByte` (rules R50, R51). -/
abbrev Memory := List Host.Cell

/-- The state of the machine. -/
structure State where
  /-- R0 to R14 with every banked copy (rules R20, R24). -/
  regs : RegFile
  /-- The address of the instruction being executed (rule R25). -/
  pc : Word
  /-- The current program status register (rule R33). -/
  cpsr : Psr
  /-- The saved program status registers (rules R24, R35). -/
  spsr : SpsrFile
  /-- Memory (rules R50, R51). -/
  mem : Memory
  /-- `ENDIAN` (rule R52). -/
  endian : Endian
  /-- `MemAdmit`: an access is admitted when one region admits it (rule R55). -/
  memAdmit : List Region
  /-- `CODE_RANGE` (rule R66). -/
  codeRange : List AddrRange
  /-- The model's own field: how many free values have been drawn (log entry 10). -/
  draws : Nat
  /-- The model's own field: the last way out of THUMB state that was taken, with its recorded value, for the outcome
  the run ends with (rule R300; log entry 32). No instruction reads it. -/
  lastExit : Option ThumbExit
deriving DecidableEq, Repr

/-! ### Why a step stops -/

/-- The reasons of the outcome `Unpredictable` (rules R300, R303). -/
inductive Reason where
  /-- "BX with bits 2:0 nonzero" (rule R175, decision D26). -/
  | bxBitsNonzero
  /-- "BX PC at a non-word-aligned address" (rules R175, R336). -/
  | bxPcUnaligned
  /-- "BX to ARM state, target not word-aligned" (rule R175, decision D17). -/
  | bxArmTargetUnaligned
  /-- "empty register list" (rules R113, R248, decision D13). -/
  | emptyRegisterList
  /-- "STMIA base in list, not lowest" (rule R248, decision D14). -/
  | stmBaseNotLowest
  /-- "store to code" (rule R66, decision D12). -/
  | storeToCode
  /-- "pc wrap" (rule R28, decision D15): with the state after the instruction's register, flag and memory writes, whose
  pc is still the instruction's address (rules R28, R304). -/
  | pcWrap (after : State)
deriving DecidableEq, Repr

/-- The faults, each with the value rule R300 records. All are safe: the run stops where the hardware may go on, so
nothing is proved past one (rule R304). -/
inductive Fault where
  /-- Raised by the meanings of the undefined words, before any state change (rule R302). Safe. -/
  | undefinedInstruction (word : Half) (pc : Word)
  /-- Raised by a use the spec calls unpredictable (rule R303), before any state change but for "pc wrap". Safe. -/
  | unpredictable (reason : Reason) (pc : Word)
  /-- Raised by a data access or fetch at an address not a multiple of its width (rule R53). Safe. -/
  | alignmentFault (addr : Word) (width : Width) (pc : Word)
  /-- Raised by a data access the platform refuses (rule R55). Safe. -/
  | dataAbort (addr : Word) (width : Width) (kind : AccessKind) (pc : Word)
  /-- Raised by a fetch the platform refuses (rule R54). Safe. -/
  | prefetchAbort (pc : Word)
deriving DecidableEq, Repr

/-- The refusals. -/
inductive Refusal where
  /-- Raised by an arm of `exec` whose instruction has no meaning yet; no arm does. Safe. -/
  | notModelled (mnemonic : String)
  /-- Raised by `step` in ARM state: the 32-bit instruction set is out of scope (rules R4, R5). It ends the run with the
  outcome that led there and the value that outcome records, none when ARM state was not entered by an instruction
  (rule R300). Safe. -/
  | armState (pc : Word) (outcome : Option ThumbExit)
deriving DecidableEq, Repr

/-- What a meaning and a step answer. -/
abbrev Result := Host.Outcome State Fault Refusal

/-! ### Reset -/

/-- Every register at the value log entry 2 names. -/
def RegFile.zero : RegFile :=
  { r0 := 0, r1 := 0, r2 := 0, r3 := 0, r4 := 0, r5 := 0, r6 := 0, r7 := 0,
    r8 := 0, r9 := 0, r10 := 0, r11 := 0, r12 := 0,
    r8Fiq := 0, r9Fiq := 0, r10Fiq := 0, r11Fiq := 0, r12Fiq := 0,
    r13Usr := 0, r14Usr := 0, r13Fiq := 0, r14Fiq := 0, r13Irq := 0, r14Irq := 0,
    r13Svc := 0, r14Svc := 0, r13Abt := 0, r14Abt := 0, r13Und := 0, r14Und := 0 }

/-- A saved status register at the value log entry 5 names. -/
def Psr.savedReset : Psr :=
  { n := false, z := false, c := false, v := false, reserved := 0, i := false, f := false, t := false, mode := .usr }

/-- The status register at the start of a modelled run: Supervisor mode with I and F set (rule R39, GK15), T set (rule
R331), the rest at the values log entry 4 names. -/
def Psr.launchReset : Psr :=
  { n := false, z := false, c := false, v := false, reserved := 0, i := true, f := true, t := true, mode := .svc }

/-- A platform that admits every access (log entry 7). -/
def admitAll : List Region :=
  [{ first := 0, last := 0xFFFFFFFF, widths := [.byte, .half, .word], kinds := [.read, .write, .fetch] }]

/-- The machine at the start of a run: the launch state that takes the place of reset (rules R39, R330, R331; log
entries 1 to 9). -/
def State.reset : State :=
  { regs := RegFile.zero
    pc := 0
    cpsr := Psr.launchReset
    spsr := { fiq := Psr.savedReset, irq := Psr.savedReset, svc := Psr.savedReset, abt := Psr.savedReset,
              und := Psr.savedReset }
    mem := []
    endian := .little
    memAdmit := admitAll
    codeRange := []
    draws := 0
    lastExit := none }

/-- The machine right after a hardware reset, which enters ARM state (rules R39, R330, GK15; log entry 1). No rule of
the spec runs an instruction in it. -/
def State.hardwareReset : State :=
  { State.reset with cpsr := { Psr.launchReset with t := false } }

end Sys2Proof.Machine
end

