-- ==== Sys2Proof/Machine/Flags.lean ====
section
/-! DEFINITION. The arithmetic and shift results with their flags, the conditions, and the 32-bit form of a status
register (rules R11, R29 to R33, R100, R121 to R123, R143 to R148, R260). -/

namespace Sys2Proof.Machine

/-! ### Arithmetic -/

/-- What `AddWithCarry` returns. -/
structure AddResult where
  result : Word
  carry : Bool
  ovf : Bool
deriving DecidableEq, Repr

/-- `AddWithCarry(a, b, cin)` (rule R11): the exact unsigned and signed sums, then the result and what it lost. -/
def addWithCarry (a b : Word) (cin : Bool) : AddResult :=
  let usum : Nat := a.toNat + b.toNat + cin.toNat
  let ssum : Int := a.toInt + b.toInt + cin.toNat
  let result := BitVec.ofNat 32 usum
  { result := result, carry := decide (2 ^ 32 ≤ usum), ovf := decide (result.toInt ≠ ssum) }

/-- The addition `a + b` (rule R11). -/
def addOp (a b : Word) : AddResult :=
  addWithCarry a b false

/-- The subtraction `a - b`, as `a + NOT b + 1`: the carry is 1 when there is no borrow (rule R11). -/
def subOp (a b : Word) : AddResult :=
  addWithCarry a (~~~b) true

/-- The low 32 bits of a product (rule R154). -/
def mulOp (a b : Word) : Word :=
  BitVec.ofNat 32 (a.toNat * b.toNat)

/-! ### Shifts -/

/-- What the shifter gives: the value and the new C. -/
structure ShiftResult where
  result : Word
  carry : Bool
deriving DecidableEq, Repr

/-- Logical shift left by 0 to 255; by 0 the carry stays as it was (rules R121, R143). -/
def shiftLeft (v : Word) (s : Nat) (c : Bool) : ShiftResult :=
  if s = 0 then ⟨v, c⟩
  else if s < 32 then ⟨v <<< s, v.getLsbD (32 - s)⟩
  else if s = 32 then ⟨0, v.getLsbD 0⟩
  else ⟨0, false⟩

/-- Logical shift right by 0 to 255; by 0 the carry stays as it was (rules R122, R144). -/
def shiftRight (v : Word) (s : Nat) (c : Bool) : ShiftResult :=
  if s = 0 then ⟨v, c⟩
  else if s < 32 then ⟨v >>> s, v.getLsbD (s - 1)⟩
  else if s = 32 then ⟨0, v.getLsbD 31⟩
  else ⟨0, false⟩

/-- Arithmetic shift right by 0 to 255; by 0 the carry stays as it was (rules R123, R145). -/
def shiftArith (v : Word) (s : Nat) (c : Bool) : ShiftResult :=
  if s = 0 then ⟨v, c⟩
  else if s < 32 then ⟨v.sshiftRight s, v.getLsbD (s - 1)⟩
  else ⟨if v.getLsbD 31 then 0xFFFFFFFF else 0, v.getLsbD 31⟩

/-- Rotate right by 0 to 255; by 0 the carry stays as it was, by another multiple of 32 only the carry changes (rule
R148). -/
def rotateRight (v : Word) (s : Nat) (c : Bool) : ShiftResult :=
  if s = 0 then ⟨v, c⟩
  else if s % 32 = 0 then ⟨v, v.getLsbD 31⟩
  else
    let r := (v >>> (s % 32)) ||| (v <<< (32 - s % 32))
    ⟨r, r.getLsbD 31⟩

/-- The amount of an LSR or ASR by immediate: the encoded 0 means 32 (rule R100). -/
def rightShiftAmount (imm : BitVec 5) : Nat :=
  if imm = 0 then 32 else imm.toNat

/-! ### Writing flags -/

/-- N and Z from a result (rule R32); C and V stay. -/
def Psr.withNZ (p : Psr) (r : Word) : Psr :=
  { p with n := r.getLsbD 31, z := decide (r = 0) }

/-- N and Z from a shifter's result and C from its carry; V stays (rule R140). -/
def Psr.withShift (p : Psr) (r : ShiftResult) : Psr :=
  { p with n := r.result.getLsbD 31, z := decide (r.result = 0), c := r.carry }

/-- N, Z, C and V from an addition (rules R32, R140). -/
def Psr.withAdd (p : Psr) (r : AddResult) : Psr :=
  { p with n := r.result.getLsbD 31, z := decide (r.result = 0), c := r.carry, v := r.ovf }

/-! ### Conditions -/

/-- The fourteen conditions of format 16 (rule R260). -/
inductive Cond where
  | eq | ne | cs | cc | mi | pl | vs | vc | hi | ls | ge | lt | gt | le
deriving DecidableEq, Repr

/-- Whether a condition holds on N, Z, C, V: the formulas of Table 4-17 (rule R260). -/
def Cond.holds (k : Cond) (p : Psr) : Bool :=
  match k with
  | .eq => p.z
  | .ne => !p.z
  | .cs => p.c
  | .cc => !p.c
  | .mi => p.n
  | .pl => !p.n
  | .vs => p.v
  | .vc => !p.v
  | .hi => p.c && !p.z
  | .ls => !p.c || p.z
  | .ge => p.n == p.v
  | .lt => p.n != p.v
  | .gt => !p.z && (p.n == p.v)
  | .le => p.z || (p.n != p.v)

/-! ### The layout of a status register -/

/-- The five bits of the M field (rule R33). -/
def Mode.toBits : Mode → BitVec 5
  | .usr => 0b10000#5
  | .fiq => 0b10001#5
  | .irq => 0b10010#5
  | .svc => 0b10011#5
  | .abt => 0b10111#5
  | .und => 0b11011#5
  | .sys => 0b11111#5

/-- The 32 bits of a status register (rule R33). -/
def Psr.toWord (p : Psr) : Word :=
  BitVec.ofBool p.n ++ BitVec.ofBool p.z ++ BitVec.ofBool p.c ++ BitVec.ofBool p.v ++ p.reserved ++
    BitVec.ofBool p.i ++ BitVec.ofBool p.f ++ BitVec.ofBool p.t ++ p.mode.toBits

end Sys2Proof.Machine
end

