-- ==== Sys2Proof/Machine/Operands.lean ====
section
/-! DEFINITION. Registers by the name an instruction gives them, and every immediate, offset and list operand (rules R21
to R28, R100 to R109, R170, R171). -/

namespace Sys2Proof.Machine

/-! ### The register file -/

/-- The content of a physical register. -/
def RegFile.get (f : RegFile) : PReg → Word
  | .r0 => f.r0
  | .r1 => f.r1
  | .r2 => f.r2
  | .r3 => f.r3
  | .r4 => f.r4
  | .r5 => f.r5
  | .r6 => f.r6
  | .r7 => f.r7
  | .r8 => f.r8
  | .r9 => f.r9
  | .r10 => f.r10
  | .r11 => f.r11
  | .r12 => f.r12
  | .r8Fiq => f.r8Fiq
  | .r9Fiq => f.r9Fiq
  | .r10Fiq => f.r10Fiq
  | .r11Fiq => f.r11Fiq
  | .r12Fiq => f.r12Fiq
  | .r13Usr => f.r13Usr
  | .r14Usr => f.r14Usr
  | .r13Fiq => f.r13Fiq
  | .r14Fiq => f.r14Fiq
  | .r13Irq => f.r13Irq
  | .r14Irq => f.r14Irq
  | .r13Svc => f.r13Svc
  | .r14Svc => f.r14Svc
  | .r13Abt => f.r13Abt
  | .r14Abt => f.r14Abt
  | .r13Und => f.r13Und
  | .r14Und => f.r14Und

/-- The register file with one register written. -/
def RegFile.set (f : RegFile) (p : PReg) (v : Word) : RegFile :=
  match p with
  | .r0 => { f with r0 := v }
  | .r1 => { f with r1 := v }
  | .r2 => { f with r2 := v }
  | .r3 => { f with r3 := v }
  | .r4 => { f with r4 := v }
  | .r5 => { f with r5 := v }
  | .r6 => { f with r6 := v }
  | .r7 => { f with r7 := v }
  | .r8 => { f with r8 := v }
  | .r9 => { f with r9 := v }
  | .r10 => { f with r10 := v }
  | .r11 => { f with r11 := v }
  | .r12 => { f with r12 := v }
  | .r8Fiq => { f with r8Fiq := v }
  | .r9Fiq => { f with r9Fiq := v }
  | .r10Fiq => { f with r10Fiq := v }
  | .r11Fiq => { f with r11Fiq := v }
  | .r12Fiq => { f with r12Fiq := v }
  | .r13Usr => { f with r13Usr := v }
  | .r14Usr => { f with r14Usr := v }
  | .r13Fiq => { f with r13Fiq := v }
  | .r14Fiq => { f with r14Fiq := v }
  | .r13Irq => { f with r13Irq := v }
  | .r14Irq => { f with r14Irq := v }
  | .r13Svc => { f with r13Svc := v }
  | .r14Svc => { f with r14Svc := v }
  | .r13Abt => { f with r13Abt := v }
  | .r14Abt => { f with r14Abt := v }
  | .r13Und => { f with r13Und := v }
  | .r14Und => { f with r14Und := v }

/-! ### Which physical register a name selects -/

/-- R0 to R7 have one copy in every mode (rule R24). -/
def loPReg : LoReg → PReg
  | .r0 => .r0
  | .r1 => .r1
  | .r2 => .r2
  | .r3 => .r3
  | .r4 => .r4
  | .r5 => .r5
  | .r6 => .r6
  | .r7 => .r7

/-- R13, the stack pointer, of a mode (rule R24). -/
def spPReg : Mode → PReg
  | .usr => .r13Usr
  | .sys => .r13Usr
  | .fiq => .r13Fiq
  | .irq => .r13Irq
  | .svc => .r13Svc
  | .abt => .r13Abt
  | .und => .r13Und

/-- R14, the link register, of a mode (rule R24). -/
def lrPReg : Mode → PReg
  | .usr => .r14Usr
  | .sys => .r14Usr
  | .fiq => .r14Fiq
  | .irq => .r14Irq
  | .svc => .r14Svc
  | .abt => .r14Abt
  | .und => .r14Und

/-- R8 to R14 of a mode; none for R15, which is the program counter (rules R22, R24). -/
def hiPReg (m : Mode) : HiReg → Option PReg
  | .r8 => some (if m = .fiq then .r8Fiq else .r8)
  | .r9 => some (if m = .fiq then .r9Fiq else .r9)
  | .r10 => some (if m = .fiq then .r10Fiq else .r10)
  | .r11 => some (if m = .fiq then .r11Fiq else .r11)
  | .r12 => some (if m = .fiq then .r12Fiq else .r12)
  | .r13 => some (spPReg m)
  | .r14 => some (lrPReg m)
  | .r15 => none

/-! ### Reading registers -/

/-- The value an instruction reads from R15: its own address plus 4 (rules R26, R171). -/
def State.pcRead (s : State) : Word :=
  s.pc + 4

/-- The value formats 6 and 12 read from R15: bits 1 and 0 are zero (rules R26, R335). -/
def State.pcReadWord (s : State) : Word :=
  s.pcRead &&& 0xFFFFFFFC

/-- The content of a Lo register. -/
def State.lo (s : State) (r : LoReg) : Word :=
  s.regs.get (loPReg r)

/-- SP, R13 of the current mode (rules R22, R218). -/
def State.sp (s : State) : Word :=
  s.regs.get (spPReg s.cpsr.mode)

/-- LR, R14 of the current mode (rule R22). -/
def State.lr (s : State) : Word :=
  s.regs.get (lrPReg s.cpsr.mode)

/-- The content of a Hi register as an operand (rules R170, R171). -/
def State.hi (s : State) (h : HiReg) : Word :=
  match hiPReg s.cpsr.mode h with
  | some p => s.regs.get p
  | none => s.pcRead

/-! ### Immediates and offsets -/

/-- Offset3 of format 2 and Offset8 of format 3, zero-extended (rule R101). -/
def zext32 {n : Nat} (v : BitVec n) : Word :=
  v.setWidth 32

/-- A field of a byte offset counted in words: formats 6, 11, 12 (rule R102), word accesses of format 9 (rule R103), and
the magnitude of format 13 (rule R105). -/
def wordOffset {n : Nat} (v : BitVec n) : Word :=
  zext32 v <<< 2

/-- A byte offset counted in halfwords: format 10 (rule R104). -/
def halfOffset {n : Nat} (v : BitVec n) : Word :=
  zext32 v <<< 1

/-- A byte offset counted in bytes: byte accesses of format 9 (rule R103). -/
def byteOffset {n : Nat} (v : BitVec n) : Word :=
  zext32 v

/-- A branch offset: a two's-complement count of halfwords (rules R106, R107). -/
def branchOffset {n : Nat} (v : BitVec n) : Word :=
  v.signExtend 32 <<< 1

/-- The offset of BL's first half: sign-extended and shifted left 12 (rules R108, R281). -/
def blHighOffset (v : BitVec 11) : Word :=
  v.signExtend 32 <<< 12

/-- The offset of BL's second half: zero-extended and shifted left 1 (rules R108, R282). -/
def blLowOffset (v : BitVec 11) : Word :=
  zext32 v <<< 1

/-- A register's shift amount: its low byte (rule R143). -/
def shiftAmount (v : Word) : Nat :=
  (v.setWidth 8).toNat

/-- Sign extension of a loaded byte (rule R200). -/
def sextByte (v : Word) : Word :=
  (v.setWidth 8).signExtend 32

/-- Sign extension of a loaded halfword (rule R201). -/
def sextHalf (v : Word) : Word :=
  (v.setWidth 16).signExtend 32

/-- The Lo registers in ascending number. -/
def allLoRegs : List LoReg :=
  [.r0, .r1, .r2, .r3, .r4, .r5, .r6, .r7]

/-- The registers of a list, in ascending number (rules R109, R240). -/
def listRegs (rlist : BitVec 8) : List LoReg :=
  allLoRegs.filter (inList rlist)

end Sys2Proof.Machine
end

