-- ==== Sys2Proof/Machine/Ops.lean ====
section
/-! DEFINITION. The operations every meaning is made of: updates of the state, memory accesses with their checks, the
end of an instruction, multi-register transfers, taking an exception and returning from one (rules R9, R10, R25 to R28,
R50 to R59, R66, R240, R301, R306 to R309). -/

namespace Sys2Proof.Machine

/-! ### Updates of the state -/

/-- Write one physical register. -/
def State.setReg (s : State) (p : PReg) (v : Word) : State :=
  { s with regs := s.regs.set p v }

/-- Set the address of the next instruction. -/
def State.setPc (s : State) (a : Word) : State :=
  { s with pc := a }

/-- Write the current status register. -/
def State.setCpsr (s : State) (p : Psr) : State :=
  { s with cpsr := p }

/-- Write memory. -/
def State.setMem (s : State) (m : Memory) : State :=
  { s with mem := m }

/-- Write the saved status registers. -/
def State.setSpsr (s : State) (f : SpsrFile) : State :=
  { s with spsr := f }

/-- Count one draw of a free value (log entry 10). -/
def State.countDraw (s : State) : State :=
  { s with draws := s.draws + 1 }

/-- Record the way out of THUMB state that is taken, with its value (rule R300; log entry 32). -/
def State.setExit (s : State) (e : ThumbExit) : State :=
  { s with lastExit := some e }

/-- Write a Lo register. -/
def State.setLo (s : State) (r : LoReg) (v : Word) : State :=
  s.setReg (loPReg r) v

/-- Write SP, R13 of the current mode. -/
def State.setSp (s : State) (v : Word) : State :=
  s.setReg (spPReg s.cpsr.mode) v

/-- Write LR, R14 of the current mode. -/
def State.setLr (s : State) (v : Word) : State :=
  s.setReg (lrPReg s.cpsr.mode) v

/-- Write several Lo registers, the first of the list first. -/
def State.setLos (s : State) : List (LoReg × Word) → State
  | [] => s
  | (r, v) :: rest => (s.setLo r v).setLos rest

/-- Write N and Z from a result (rule R32). -/
def State.flagsNZ (s : State) (r : Word) : State :=
  s.setCpsr (s.cpsr.withNZ r)

/-- Write N, Z and C from the shifter. -/
def State.flagsShift (s : State) (r : ShiftResult) : State :=
  s.setCpsr (s.cpsr.withShift r)

/-- Write N, Z, C and V from an addition. -/
def State.flagsAdd (s : State) (r : AddResult) : State :=
  s.setCpsr (s.cpsr.withAdd r)

/-! ### The end of an instruction -/

/-- The next instruction is at `pc + 2`, unless that runs off the top of the address space: then the instruction's writes
are made and the run stops in place of the update of the pc (rules R25, R28, R304). -/
def State.advance (s : State) : Result :=
  if 2 ^ 32 ≤ s.pc.toNat + 2 then .fault (.unpredictable (.pcWrap s) s.pc)
  else .next (s.setPc (s.pc + 2))

/-- A write of R15 that stays in THUMB state: bit 0 of the value is ignored (rules R27, R177). -/
def State.branchTo (s : State) (v : Word) : State :=
  s.setPc (v &&& 0xFFFFFFFE)

/-- Write a Hi register and end the instruction; a write of R15 branches (rules R172, R174, R177). -/
def State.finishHi (s : State) (hd : HiReg) (v : Word) : Result :=
  match hiPReg s.cpsr.mode hd with
  | some p => (s.setReg p v).advance
  | none => .next (s.branchTo v)

/-- A conditional branch: to `pc + 4 + offset` when the condition holds, else on to `pc + 2` (rule R260). -/
def State.branchIf (s : State) (k : Cond) (offset : Word) : Result :=
  if k.holds s.cpsr then .next (s.setPc (s.pcRead + offset)) else s.advance

/-! ### Memory -/

/-- The byte at an address. -/
def Memory.read : Memory → Nat → Byte
  | [], _ => Config.unlistedByte
  | (a, b) :: rest, addr =>
    if addr = a then b else if addr < a then Config.unlistedByte else Memory.read rest addr

/-- An entry in front of a list, unless it holds what an unlisted address reads as. -/
def Memory.entry (addr : Nat) (b : Byte) (rest : Memory) : Memory :=
  if b = Config.unlistedByte then rest else (addr, b) :: rest

/-- Memory with one byte written; the canonical form is kept. -/
def Memory.write : Memory → Nat → Byte → Memory
  | [], addr, b => Memory.entry addr b []
  | (a, c) :: rest, addr, b =>
    if addr = a then Memory.entry addr b rest
    else if addr < a then Memory.entry addr b ((a, c) :: rest)
    else (a, c) :: Memory.write rest addr b

/-- Every address of a memory is above a bound and inside the 32-bit space, the addresses rise, and no byte is the one
an unlisted address reads as. -/
def Memory.wfAbove : Nat → Memory → Bool
  | _, [] => true
  | lo, (a, b) :: rest =>
    decide (lo ≤ a) && decide (a < 2 ^ 32) && decide (b ≠ Config.unlistedByte) && Memory.wfAbove (a + 1) rest

/-- The canonical form of a memory. -/
def Memory.wf (m : Memory) : Bool :=
  Memory.wfAbove 0 m

/-- The `n` bytes at rising addresses from `a`. -/
def Memory.readBytes (m : Memory) (a : Word) : Nat → List Byte
  | 0 => []
  | n + 1 => m.read a.toNat :: Memory.readBytes m (a + 1) n

/-- Memory with bytes written at rising addresses from `a`. -/
def Memory.writeBytes (m : Memory) (a : Word) : List Byte → Memory
  | [] => m
  | b :: bs => Memory.writeBytes (m.write a.toNat b) (a + 1) bs

/-- The value of `n` bytes at an address in the current byte order, without any check (rule R52). -/
def State.peek (s : State) (a : Word) (w : Width) : Word :=
  BitVec.ofNat 32 (joinBytes s.endian (s.mem.readBytes a w.bytes))

/-- Memory after the low bytes of a value are stored at an address, without any check (rule R52). -/
def State.poke (s : State) (a : Word) (w : Width) (v : Word) : State :=
  s.setMem (s.mem.writeBytes a (splitBytes s.endian w.bytes v.toNat))

/-! ### The platform -/

/-- One region admits an access. -/
def Region.admits (r : Region) (a : Word) (w : Width) (k : AccessKind) : Bool :=
  decide (r.first ≤ a.toNat) && decide (a.toNat + w.bytes ≤ r.last + 1) && r.widths.contains w && r.kinds.contains k

/-- `MemAdmit(addr, n, kind)` (rule R55). -/
def State.admits (s : State) (a : Word) (w : Width) (k : AccessKind) : Bool :=
  s.memAdmit.any (fun r => r.admits a w k)

/-- The access touches an address of a run of addresses. -/
def AddrRange.touches (r : AddrRange) (a : Word) (w : Width) : Bool :=
  decide (r.first ≤ r.last) && decide (r.first < a.toNat + w.bytes) && decide (a.toNat ≤ r.last)

/-- The access touches an address of `CODE_RANGE` (rule R66). -/
def State.touchesCode (s : State) (a : Word) (w : Width) : Bool :=
  s.codeRange.any (fun r => r.touches a w)

/-- The address is a multiple of the width (rule R53). -/
def aligned (a : Word) (w : Width) : Bool :=
  a.toNat % w.bytes == 0

/-! ### Accesses -/

/-- `MemRead(addr, n)` of a data access: alignment, admission, transfer (rules R10, R53, R55, R56). -/
def State.memRead (s : State) (a : Word) (w : Width) : Except Fault Word :=
  if !aligned a w then .error (.alignmentFault a w s.pc)
  else if !s.admits a w .read then .error (.dataAbort a w .read s.pc)
  else .ok (s.peek a w)

/-- `MemWrite(addr, n, v)`: alignment, code range, admission, transfer (rules R10, R53, R55, R56, R66). -/
def State.memWrite (s : State) (a : Word) (w : Width) (v : Word) : Except Fault State :=
  if !aligned a w then .error (.alignmentFault a w s.pc)
  else if s.touchesCode a w then .error (.unpredictable .storeToCode s.pc)
  else if !s.admits a w .write then .error (.dataAbort a w .write s.pc)
  else .ok (s.poke a w v)

/-- The fetch of the instruction at `pc` (rules R52, R54). -/
def State.fetch (s : State) : Except Fault Half :=
  if !aligned s.pc .half then .error (.alignmentFault s.pc .half s.pc)
  else if !s.admits s.pc .half .fetch then .error (.prefetchAbort s.pc)
  else .ok ((s.peek s.pc .half).setWidth 16)

/-- A load: read, extend, write the register, go on (rule R190). -/
def State.load (s : State) (rd : LoReg) (a : Word) (w : Width) (ext : Word → Word) : Result :=
  match s.memRead a w with
  | .error f => .fault f
  | .ok v => (s.setLo rd (ext v)).advance

/-- A store: write the low bytes of the value, go on (rule R190). -/
def State.store (s : State) (a : Word) (w : Width) (v : Word) : Result :=
  match s.memWrite a w v with
  | .error f => .fault f
  | .ok s' => s'.advance

/-! ### Multi-register transfers -/

/-- Store words at rising word addresses, one access at a time (rules R56, R240). -/
def State.storeWords (s : State) (a : Word) : List Word → Except Fault State
  | [] => .ok s
  | v :: vs =>
    match s.memWrite a .word v with
    | .error f => .error f
    | .ok s' => s'.storeWords (a + 4) vs

/-- Load words from rising word addresses, one access at a time (rules R56, R240). -/
def State.loadWords (s : State) (a : Word) : Nat → Except Fault (List Word)
  | 0 => .ok []
  | n + 1 =>
    match s.memRead a .word with
    | .error f => .error f
    | .ok v =>
      match s.loadWords (a + 4) n with
      | .error f => .error f
      | .ok vs => .ok (v :: vs)

/-- The number of bytes of `n` words. -/
def wordBytes (n : Nat) : Word :=
  4 * BitVec.ofNat 32 n

/-- The address of the lowest word of a push of `n` words (rules R241, R242). -/
def State.pushStart (s : State) (n : Nat) : Word :=
  s.sp - wordBytes n

/-- Push words, the first at the lowest address, and move SP down to it (rules R61, R241, R242). -/
def State.pushWords (s : State) (vs : List Word) : Result :=
  match s.storeWords (s.pushStart vs.length) vs with
  | .error f => .fault f
  | .ok s' => (s'.setSp (s.pushStart vs.length)).advance

/-! ### Exceptions -/

/-- The mode an exception enters, as a mode of the CPSR. -/
def ExcMode.toMode : ExcMode → Mode
  | .fiq => .fiq
  | .irq => .irq
  | .svc => .svc
  | .abt => .abt
  | .und => .und

/-- The SPSR of an exception mode (rule R24). -/
def SpsrFile.get (f : SpsrFile) : ExcMode → Psr
  | .fiq => f.fiq
  | .irq => f.irq
  | .svc => f.svc
  | .abt => f.abt
  | .und => f.und

/-- Write the SPSR of an exception mode. -/
def SpsrFile.set (f : SpsrFile) (m : ExcMode) (p : Psr) : SpsrFile :=
  match m with
  | .fiq => { f with fiq := p }
  | .irq => { f with irq := p }
  | .svc => { f with svc := p }
  | .abt => { f with abt := p }
  | .und => { f with und := p }

/-- The CPSR on entry to an exception: the new mode, ARM state, IRQ disabled; N, Z, C, V, F and the reserved bits stay
(rules R35, R301, R307). -/
def Psr.entering (p : Psr) (m : ExcMode) : Psr :=
  { p with mode := m.toMode, t := false, i := true }

/-- Taking an exception: R14 of the new mode gets the return address, its SPSR the old CPSR, and the pc the vector
(rules R301, R307). -/
def State.enterException (s : State) (m : ExcMode) (vector ret : Word) : State :=
  (((s.setReg (lrPReg m.toMode) ret).setSpsr (s.spsr.set m s.cpsr)).setCpsr (s.cpsr.entering m)).setPc vector

/-- The mode whose SPSR a return restores; none in User and System mode, which have none (rule R24). -/
def Mode.excMode : Mode → Option ExcMode
  | .fiq => some .fiq
  | .irq => some .irq
  | .svc => some .svc
  | .abt => some .abt
  | .und => some .und
  | .usr => none
  | .sys => none

/-- Returning from an exception: the current mode's SPSR goes to the CPSR and its R14, less an offset, to the pc; none
in a mode without an SPSR. `MOVS PC, R14` of a SWI handler is the offset 0 (rule R309, GK20). No THUMB instruction does
it: it is here as the spec describes it, beside the entry. -/
def State.returnFromException (s : State) (offset : Word) : Option State :=
  match s.cpsr.mode.excMode with
  | some m => some ((s.setCpsr (s.spsr.get m)).setPc (s.lr - offset))
  | none => none

end Sys2Proof.Machine
end

