-- ==== Sys2Proof/Machine/AddressSp.lean ====
section
/-! DEFINITION. Formats 12 and 13: addresses from the PC and the SP, and offsets added to the SP; no flags (rules R230 to R235). -/

namespace Sys2Proof.Machine

/-- `ADD Rd, PC, #Imm` (rule R230). -/
def execAddPc (rd : LoReg) (word8 : BitVec 8) (s : State) : Result :=
  (s.setLo rd (s.pcReadWord + wordOffset word8)).advance

/-- `ADD Rd, SP, #Imm` (rule R231). -/
def execAddSpRd (rd : LoReg) (word8 : BitVec 8) (s : State) : Result :=
  (s.setLo rd (s.sp + wordOffset word8)).advance

/-- `ADD SP, #Imm` (rule R233). -/
def execAddSpPos (sword7 : BitVec 7) (s : State) : Result :=
  (s.setSp (s.sp + wordOffset sword7)).advance

/-- `ADD SP, #-Imm` (rule R234). -/
def execAddSpNeg (sword7 : BitVec 7) (s : State) : Result :=
  (s.setSp (s.sp - wordOffset sword7)).advance

end Sys2Proof.Machine
end

