-- ==== Sys2Proof/Machine/Alu.lean ====
section
/-! DEFINITION. Format 4: the sixteen ALU operations of two Lo registers (rules R140 to R156). -/

namespace Sys2Proof.Machine

/-! ### Logical: N and Z; C and V stay (rule R140) -/

/-- `AND Rd, Rs` (rule R141). -/
def execAndReg (rd rs : LoReg) (s : State) : Result :=
  let r := s.lo rd &&& s.lo rs
  ((s.setLo rd r).flagsNZ r).advance

/-- `EOR Rd, Rs` (rule R142). -/
def execEorReg (rd rs : LoReg) (s : State) : Result :=
  let r := s.lo rd ^^^ s.lo rs
  ((s.setLo rd r).flagsNZ r).advance

/-- `ORR Rd, Rs` (rule R153). -/
def execOrrReg (rd rs : LoReg) (s : State) : Result :=
  let r := s.lo rd ||| s.lo rs
  ((s.setLo rd r).flagsNZ r).advance

/-- `BIC Rd, Rs` (rule R155). -/
def execBicReg (rd rs : LoReg) (s : State) : Result :=
  let r := s.lo rd &&& ~~~(s.lo rs)
  ((s.setLo rd r).flagsNZ r).advance

/-- `MVN Rd, Rs` (rule R156). -/
def execMvnReg (rd rs : LoReg) (s : State) : Result :=
  let r := ~~~(s.lo rs)
  ((s.setLo rd r).flagsNZ r).advance

/-- `TST Rd, Rs`: no register is written (rule R149). -/
def execTstReg (rd rs : LoReg) (s : State) : Result :=
  (s.flagsNZ (s.lo rd &&& s.lo rs)).advance

/-! ### Shifts by register: N, Z and C; V stays (rule R140) -/

/-- `LSL Rd, Rs` (rule R143). -/
def execLslReg (rd rs : LoReg) (s : State) : Result :=
  let r := shiftLeft (s.lo rd) (shiftAmount (s.lo rs)) s.cpsr.c
  ((s.setLo rd r.result).flagsShift r).advance

/-- `LSR Rd, Rs` (rule R144). -/
def execLsrReg (rd rs : LoReg) (s : State) : Result :=
  let r := shiftRight (s.lo rd) (shiftAmount (s.lo rs)) s.cpsr.c
  ((s.setLo rd r.result).flagsShift r).advance

/-- `ASR Rd, Rs` (rule R145). -/
def execAsrReg (rd rs : LoReg) (s : State) : Result :=
  let r := shiftArith (s.lo rd) (shiftAmount (s.lo rs)) s.cpsr.c
  ((s.setLo rd r.result).flagsShift r).advance

/-- `ROR Rd, Rs` (rule R148). -/
def execRorReg (rd rs : LoReg) (s : State) : Result :=
  let r := rotateRight (s.lo rd) (shiftAmount (s.lo rs)) s.cpsr.c
  ((s.setLo rd r.result).flagsShift r).advance

/-! ### Arithmetic: N, Z, C and V (rule R140) -/

/-- `ADC Rd, Rs` (rule R146). -/
def execAdcReg (rd rs : LoReg) (s : State) : Result :=
  let r := addWithCarry (s.lo rd) (s.lo rs) s.cpsr.c
  ((s.setLo rd r.result).flagsAdd r).advance

/-- `SBC Rd, Rs` (rule R147). -/
def execSbcReg (rd rs : LoReg) (s : State) : Result :=
  let r := addWithCarry (s.lo rd) (~~~(s.lo rs)) s.cpsr.c
  ((s.setLo rd r.result).flagsAdd r).advance

/-- `NEG Rd, Rs`, zero less Rs (rule R150). -/
def execNegReg (rd rs : LoReg) (s : State) : Result :=
  let r := subOp 0 (s.lo rs)
  ((s.setLo rd r.result).flagsAdd r).advance

/-- `CMP Rd, Rs` of two Lo registers: no register is written (rule R151). -/
def execCmpReg (rd rs : LoReg) (s : State) : Result :=
  (s.flagsAdd (subOp (s.lo rd) (s.lo rs))).advance

/-- `CMN Rd, Rs`: no register is written (rule R152). -/
def execCmnReg (rd rs : LoReg) (s : State) : Result :=
  (s.flagsAdd (addOp (s.lo rd) (s.lo rs))).advance

/-! ### Multiply -/

/-- N and Z from a product; C is the next free value; V stays (rule R154; log entry 10). -/
def Psr.withMul (p : Psr) (r : Word) (draw : Bool) : Psr :=
  { p.withNZ r with c := draw }

/-- `MUL Rd, Rs` (rule R154). -/
def execMulReg (rd rs : LoReg) (s : State) : Result :=
  let r := mulOp (s.lo rs) (s.lo rd)
  (((s.setLo rd r).setCpsr (s.cpsr.withMul r (Config.mulCarryDraw s.draws))).countDraw).advance

end Sys2Proof.Machine
end

