-- ==== Sys2Proof/Machine/Branch.lean ====
section
/-! DEFINITION. Formats 16 to 19: conditional branches, SWI, B, and the two instructions of BL (rules R260 to R283, R301). -/

namespace Sys2Proof.Machine

/-! ### Format 16 -/

/-- `BEQ label` (rule R261). -/
def execBeq (soff8 : BitVec 8) (s : State) : Result :=
  s.branchIf .eq (branchOffset soff8)

/-- `BNE label` (rule R262). -/
def execBne (soff8 : BitVec 8) (s : State) : Result :=
  s.branchIf .ne (branchOffset soff8)

/-- `BCS label` (rule R263). -/
def execBcs (soff8 : BitVec 8) (s : State) : Result :=
  s.branchIf .cs (branchOffset soff8)

/-- `BCC label` (rule R264). -/
def execBcc (soff8 : BitVec 8) (s : State) : Result :=
  s.branchIf .cc (branchOffset soff8)

/-- `BMI label` (rule R265). -/
def execBmi (soff8 : BitVec 8) (s : State) : Result :=
  s.branchIf .mi (branchOffset soff8)

/-- `BPL label` (rule R266). -/
def execBpl (soff8 : BitVec 8) (s : State) : Result :=
  s.branchIf .pl (branchOffset soff8)

/-- `BVS label` (rule R267). -/
def execBvs (soff8 : BitVec 8) (s : State) : Result :=
  s.branchIf .vs (branchOffset soff8)

/-- `BVC label` (rule R268). -/
def execBvc (soff8 : BitVec 8) (s : State) : Result :=
  s.branchIf .vc (branchOffset soff8)

/-- `BHI label` (rule R269). -/
def execBhi (soff8 : BitVec 8) (s : State) : Result :=
  s.branchIf .hi (branchOffset soff8)

/-- `BLS label` (rule R270). -/
def execBls (soff8 : BitVec 8) (s : State) : Result :=
  s.branchIf .ls (branchOffset soff8)

/-- `BGE label` (rule R271). -/
def execBge (soff8 : BitVec 8) (s : State) : Result :=
  s.branchIf .ge (branchOffset soff8)

/-- `BLT label` (rule R272). -/
def execBlt (soff8 : BitVec 8) (s : State) : Result :=
  s.branchIf .lt (branchOffset soff8)

/-- `BGT label` (rule R273). -/
def execBgt (soff8 : BitVec 8) (s : State) : Result :=
  s.branchIf .gt (branchOffset soff8)

/-- `BLE label` (rule R274). -/
def execBle (soff8 : BitVec 8) (s : State) : Result :=
  s.branchIf .le (branchOffset soff8)

/-! ### Format 17 -/

/-- `SWI Value8`: the software interrupt exception is taken, and its outcome records Value8, which no register or memory
of the processor receives (rules R277, R300, R301; log entries 11, 32). -/
def execSwi (value8 : BitVec 8) (s : State) : Result :=
  .next ((s.enterException .svc Config.swiVector (s.pc + 2)).setExit (.softwareInterrupt value8))

/-! ### Format 18 -/

/-- `B label` (rule R279). -/
def execB (off11 : BitVec 11) (s : State) : Result :=
  .next (s.setPc (s.pcRead + branchOffset off11))

/-! ### Format 19 -/

/-- The first instruction of BL: LR gets the PC plus the high part of the offset (rule R281). -/
def execBlHigh (off11 : BitVec 11) (s : State) : Result :=
  (s.setLr (s.pcRead + blHighOffset off11)).advance

/-- The second instruction of BL: to LR plus the low part of the offset, and the return address with bit 0 set in LR
(rule R282). -/
def execBlLow (off11 : BitVec 11) (s : State) : Result :=
  .next ((s.setLr ((s.pc + 2) ||| 1)).branchTo (s.lr + blLowOffset off11))

end Sys2Proof.Machine
end

