-- ==== Sys2Proof/Machine/HiReg.lean ====
section
/-! DEFINITION. Format 5: ADD, CMP and MOV with a Hi register, and BX (rules R170 to R177, R306). -/

namespace Sys2Proof.Machine

/-! ### ADD: no flags (rule R172) -/

/-- `ADD Rd, Hs` (rule R172). -/
def execAddLoHi (rd : LoReg) (hs : HiReg) (s : State) : Result :=
  (s.setLo rd (s.lo rd + s.hi hs)).advance

/-- `ADD Hd, Rs` (rule R172). -/
def execAddHiLo (hd : HiReg) (rs : LoReg) (s : State) : Result :=
  s.finishHi hd (s.hi hd + s.lo rs)

/-- `ADD Hd, Hs` (rule R172). -/
def execAddHiHi (hd hs : HiReg) (s : State) : Result :=
  s.finishHi hd (s.hi hd + s.hi hs)

/-! ### CMP: N, Z, C and V (rule R173) -/

/-- `CMP Rd, Hs`: no register is written, R15 as first operand does not branch (rule R173). -/
def execCmpLoHi (rd : LoReg) (hs : HiReg) (s : State) : Result :=
  (s.flagsAdd (subOp (s.lo rd) (s.hi hs))).advance

/-- `CMP Hd, Rs`: no register is written, R15 as first operand does not branch (rule R173). -/
def execCmpHiLo (hd : HiReg) (rs : LoReg) (s : State) : Result :=
  (s.flagsAdd (subOp (s.hi hd) (s.lo rs))).advance

/-- `CMP Hd, Hs`: no register is written, R15 as first operand does not branch (rule R173). -/
def execCmpHiHi (hd hs : HiReg) (s : State) : Result :=
  (s.flagsAdd (subOp (s.hi hd) (s.hi hs))).advance

/-! ### MOV: no flags (rule R174) -/

/-- `MOV Rd, Hs` (rule R174). -/
def execMovLoHi (rd : LoReg) (hs : HiReg) (s : State) : Result :=
  (s.setLo rd (s.hi hs)).advance

/-- `MOV Hd, Rs` (rule R174). -/
def execMovHiLo (hd : HiReg) (rs : LoReg) (s : State) : Result :=
  s.finishHi hd (s.lo rs)

/-- `MOV Hd, Hs` (rule R174). -/
def execMovHiHi (hd hs : HiReg) (s : State) : Result :=
  s.finishHi hd (s.hi hs)

/-! ### BX (rules R175, R306) -/

/-- BX to a target: bit 0 set stays in THUMB state, bit 0 clear enters ARM state at a word-aligned target, which
its outcome records (rules R175, R300, R306; log entries 12, 32). -/
def State.exchange (s : State) (t : Word) : Result :=
  if t.getLsbD 0 then .next ((s.setCpsr { s.cpsr with t := true }).setPc (t &&& 0xFFFFFFFE))
  else if t.getLsbD 1 then .fault (.unpredictable .bxArmTargetUnaligned s.pc)
  else .next (((s.setCpsr { s.cpsr with t := false }).setPc t).setExit (.enterArmState t))

/-- `BX Rs` (rule R175). -/
def execBxLo (rs : LoReg) (sbz : BitVec 3) (s : State) : Result :=
  if sbz ≠ 0 then .fault (.unpredictable .bxBitsNonzero s.pc)
  else s.exchange (s.lo rs)

/-- `BX Hs`; `BX PC` must be at a word-aligned address (rules R175, R336). -/
def execBxHi (hs : HiReg) (sbz : BitVec 3) (s : State) : Result :=
  if sbz ≠ 0 then .fault (.unpredictable .bxBitsNonzero s.pc)
  else if hs = .r15 ∧ s.pc.getLsbD 1 = true then .fault (.unpredictable .bxPcUnaligned s.pc)
  else s.exchange (s.hi hs)

end Sys2Proof.Machine
end

