-- ==== Sys2Proof/Machine/LoadStoreImm.lean ====
section
/-! DEFINITION. Formats 9, 10 and 11: loads and stores with immediate offset, and SP-relative (rules R210 to R220). -/

namespace Sys2Proof.Machine

/-! ### Formats 9 and 10 -/

/-- The address of an immediate-offset access (rules R210, R215). -/
def State.immAddr (s : State) (rb : LoReg) (offset : Word) : Word :=
  s.lo rb + offset

/-- `STR Rd, [Rb, #Imm]` (rule R211). -/
def execStrImm (rd rb : LoReg) (off5 : BitVec 5) (s : State) : Result :=
  s.store (s.immAddr rb (wordOffset off5)) .word (s.lo rd)

/-- `LDR Rd, [Rb, #Imm]` (rule R212). -/
def execLdrImm (rd rb : LoReg) (off5 : BitVec 5) (s : State) : Result :=
  s.load rd (s.immAddr rb (wordOffset off5)) .word id

/-- `STRB Rd, [Rb, #Imm]` (rule R213). -/
def execStrbImm (rd rb : LoReg) (off5 : BitVec 5) (s : State) : Result :=
  s.store (s.immAddr rb (byteOffset off5)) .byte (s.lo rd)

/-- `LDRB Rd, [Rb, #Imm]` (rule R214). -/
def execLdrbImm (rd rb : LoReg) (off5 : BitVec 5) (s : State) : Result :=
  s.load rd (s.immAddr rb (byteOffset off5)) .byte id

/-- `STRH Rd, [Rb, #Imm]` (rule R216). -/
def execStrhImm (rd rb : LoReg) (off5 : BitVec 5) (s : State) : Result :=
  s.store (s.immAddr rb (halfOffset off5)) .half (s.lo rd)

/-- `LDRH Rd, [Rb, #Imm]` (rule R217). -/
def execLdrhImm (rd rb : LoReg) (off5 : BitVec 5) (s : State) : Result :=
  s.load rd (s.immAddr rb (halfOffset off5)) .half id

/-! ### Format 11 -/

/-- The address of an SP-relative access (rule R218). -/
def State.spAddr (s : State) (word8 : BitVec 8) : Word :=
  s.sp + wordOffset word8

/-- `STR Rd, [SP, #Imm]` (rule R219). -/
def execStrSp (rd : LoReg) (word8 : BitVec 8) (s : State) : Result :=
  s.store (s.spAddr word8) .word (s.lo rd)

/-- `LDR Rd, [SP, #Imm]` (rule R220). -/
def execLdrSp (rd : LoReg) (word8 : BitVec 8) (s : State) : Result :=
  s.load rd (s.spAddr word8) .word id

end Sys2Proof.Machine
end

