-- ==== Sys2Proof/Machine/LoadStoreReg.lean ====
section
/-! DEFINITION. Formats 6, 7 and 8: the PC-relative load, and loads and stores with register offset (rules R190 to R201). A narrow read is
zero-extended as it is read; LDSB and LDSH extend its sign. -/

namespace Sys2Proof.Machine

/-! ### Format 6 -/

/-- The address of a PC-relative load (rule R191). -/
def State.pcAddr (s : State) (word8 : BitVec 8) : Word :=
  s.pcReadWord + wordOffset word8

/-- `LDR Rd, [PC, #Imm]` (rule R191). -/
def execLdrPc (rd : LoReg) (word8 : BitVec 8) (s : State) : Result :=
  s.load rd (s.pcAddr word8) .word id

/-! ### Formats 7 and 8 -/

/-- The address of a register-offset access (rules R192, R197). -/
def State.regAddr (s : State) (rb ro : LoReg) : Word :=
  s.lo rb + s.lo ro

/-- `STR Rd, [Rb, Ro]` (rule R193). -/
def execStrReg (rd rb ro : LoReg) (s : State) : Result :=
  s.store (s.regAddr rb ro) .word (s.lo rd)

/-- `STRB Rd, [Rb, Ro]` (rule R194). -/
def execStrbReg (rd rb ro : LoReg) (s : State) : Result :=
  s.store (s.regAddr rb ro) .byte (s.lo rd)

/-- `LDR Rd, [Rb, Ro]` (rule R195). -/
def execLdrReg (rd rb ro : LoReg) (s : State) : Result :=
  s.load rd (s.regAddr rb ro) .word id

/-- `LDRB Rd, [Rb, Ro]` (rule R196). -/
def execLdrbReg (rd rb ro : LoReg) (s : State) : Result :=
  s.load rd (s.regAddr rb ro) .byte id

/-- `STRH Rd, [Rb, Ro]` (rule R198). -/
def execStrhReg (rd rb ro : LoReg) (s : State) : Result :=
  s.store (s.regAddr rb ro) .half (s.lo rd)

/-- `LDRH Rd, [Rb, Ro]` (rule R199). -/
def execLdrhReg (rd rb ro : LoReg) (s : State) : Result :=
  s.load rd (s.regAddr rb ro) .half id

/-- `LDSB Rd, [Rb, Ro]` (rule R200). -/
def execLdsbReg (rd rb ro : LoReg) (s : State) : Result :=
  s.load rd (s.regAddr rb ro) .byte sextByte

/-- `LDSH Rd, [Rb, Ro]` (rule R201). -/
def execLdshReg (rd rb ro : LoReg) (s : State) : Result :=
  s.load rd (s.regAddr rb ro) .half sextHalf

end Sys2Proof.Machine
end

