-- ==== Sys2Proof/Machine/Multiple.lean ====
section
/-! DEFINITION. Formats 14 and 15: PUSH, POP, STMIA and LDMIA (rules R240 to R249). -/

namespace Sys2Proof.Machine

/-! ### Format 14 -/

/-- The values of the registers of a list, in ascending register number (rule R240). -/
def State.listValues (s : State) (rlist : BitVec 8) : List Word :=
  (listRegs rlist).map s.lo

/-- `PUSH {Rlist}` (rules R241, R248). -/
def execPush (rlist : BitVec 8) (s : State) : Result :=
  if rlist = 0 then .fault (.unpredictable .emptyRegisterList s.pc)
  else s.pushWords (s.listValues rlist)

/-- `PUSH {Rlist, LR}`: LR is at the highest address (rule R242). -/
def execPushLr (rlist : BitVec 8) (s : State) : Result :=
  s.pushWords (s.listValues rlist ++ [s.lr])

/-- `POP {Rlist}` (rules R243, R248). -/
def execPop (rlist : BitVec 8) (s : State) : Result :=
  if rlist = 0 then .fault (.unpredictable .emptyRegisterList s.pc)
  else
    match s.loadWords s.sp (listRegs rlist).length with
    | .error f => .fault f
    | .ok vs =>
      ((s.setLos ((listRegs rlist).zip vs)).setSp (s.sp + wordBytes (listRegs rlist).length)).advance

/-- `POP {Rlist, PC}`: the PC is at the highest address, its bit 0 is ignored (rules R27, R244). -/
def execPopPc (rlist : BitVec 8) (s : State) : Result :=
  match s.loadWords s.sp (listRegs rlist).length with
  | .error f => .fault f
  | .ok vs =>
    match s.memRead (s.sp + wordBytes (listRegs rlist).length) .word with
    | .error f => .fault f
    | .ok t =>
      .next (((s.setLos ((listRegs rlist).zip vs)).setSp (s.sp + wordBytes ((listRegs rlist).length + 1))).branchTo t)

/-! ### Format 15 -/

/-- `STMIA Rb!, {Rlist}`: the values stored are those before the write-back (rules R246, R248). -/
def execStmia (rb : LoReg) (rlist : BitVec 8) (s : State) : Result :=
  if rlist = 0 then .fault (.unpredictable .emptyRegisterList s.pc)
  else if baseNotLowest rb rlist then .fault (.unpredictable .stmBaseNotLowest s.pc)
  else
    match s.storeWords (s.lo rb) (s.listValues rlist) with
    | .error f => .fault f
    | .ok s' => (s'.setLo rb (s.lo rb + wordBytes (listRegs rlist).length)).advance

/-- `LDMIA Rb!, {Rlist}`: all words are read, then the write-back, then the registers, so that a loaded Rb keeps its
loaded value (rules R247, R248). -/
def execLdmia (rb : LoReg) (rlist : BitVec 8) (s : State) : Result :=
  if rlist = 0 then .fault (.unpredictable .emptyRegisterList s.pc)
  else
    match s.loadWords (s.lo rb) (listRegs rlist).length with
    | .error f => .fault f
    | .ok vs =>
      ((s.setLo rb (s.lo rb + wordBytes (listRegs rlist).length)).setLos ((listRegs rlist).zip vs)).advance

end Sys2Proof.Machine
end

