-- ==== Sys2Proof/Machine/ShiftAddSub.lean ====
section
/-! DEFINITION. Formats 1, 2 and 3: shifts by immediate, add and subtract, operations with an 8-bit immediate (rules R120 to R135). -/

namespace Sys2Proof.Machine

/-! ### Format 1 -/

/-- `LSL Rd, Rs, #Offset5` (rule R121). -/
def execLslImm (rd rs : LoReg) (imm : BitVec 5) (s : State) : Result :=
  let r := shiftLeft (s.lo rs) imm.toNat s.cpsr.c
  ((s.setLo rd r.result).flagsShift r).advance

/-- `LSR Rd, Rs, #Offset5` (rule R122). -/
def execLsrImm (rd rs : LoReg) (imm : BitVec 5) (s : State) : Result :=
  let r := shiftRight (s.lo rs) (rightShiftAmount imm) s.cpsr.c
  ((s.setLo rd r.result).flagsShift r).advance

/-- `ASR Rd, Rs, #Offset5` (rule R123). -/
def execAsrImm (rd rs : LoReg) (imm : BitVec 5) (s : State) : Result :=
  let r := shiftArith (s.lo rs) (rightShiftAmount imm) s.cpsr.c
  ((s.setLo rd r.result).flagsShift r).advance

/-! ### Format 2 -/

/-- `ADD Rd, Rs, Rn` (rule R126). -/
def execAddReg (rd rs rn : LoReg) (s : State) : Result :=
  let r := addOp (s.lo rs) (s.lo rn)
  ((s.setLo rd r.result).flagsAdd r).advance

/-- `ADD Rd, Rs, #Offset3` (rule R127). -/
def execAddImm3 (rd rs : LoReg) (imm : BitVec 3) (s : State) : Result :=
  let r := addOp (s.lo rs) (zext32 imm)
  ((s.setLo rd r.result).flagsAdd r).advance

/-- `SUB Rd, Rs, Rn` (rule R128). -/
def execSubReg (rd rs rn : LoReg) (s : State) : Result :=
  let r := subOp (s.lo rs) (s.lo rn)
  ((s.setLo rd r.result).flagsAdd r).advance

/-- `SUB Rd, Rs, #Offset3` (rule R129). -/
def execSubImm3 (rd rs : LoReg) (imm : BitVec 3) (s : State) : Result :=
  let r := subOp (s.lo rs) (zext32 imm)
  ((s.setLo rd r.result).flagsAdd r).advance

/-! ### Format 3 -/

/-- `MOV Rd, #Offset8`: C and V stay (rule R132). -/
def execMovImm (rd : LoReg) (imm : BitVec 8) (s : State) : Result :=
  ((s.setLo rd (zext32 imm)).flagsNZ (zext32 imm)).advance

/-- `CMP Rd, #Offset8` (rule R133). -/
def execCmpImm (rd : LoReg) (imm : BitVec 8) (s : State) : Result :=
  (s.flagsAdd (subOp (s.lo rd) (zext32 imm))).advance

/-- `ADD Rd, #Offset8` (rule R134). -/
def execAddImm8 (rd : LoReg) (imm : BitVec 8) (s : State) : Result :=
  let r := addOp (s.lo rd) (zext32 imm)
  ((s.setLo rd r.result).flagsAdd r).advance

/-- `SUB Rd, #Offset8` (rule R135). -/
def execSubImm8 (rd : LoReg) (imm : BitVec 8) (s : State) : Result :=
  let r := subOp (s.lo rd) (zext32 imm)
  ((s.setLo rd r.result).flagsAdd r).advance

end Sys2Proof.Machine
end

