-- ==== Sys2Proof/Machine/Undefined.lean ====
section
/-! DEFINITION. The undefined and unallocated words: each ends the run (rules R111, R112, R176, R275, R302; log entry 15). -/

namespace Sys2Proof.Machine

/-- The outcome of a word the spec calls undefined or no format claims, before any state change (rule R302). -/
def State.undefinedWord (s : State) (word : Half) : Result :=
  .fault (.undefinedInstruction word s.pc)

/-- The undefined words 0x4400 to 0x443F (rule R176). -/
def execUndefAddLoLo (x : BitVec 6) (s : State) : Result :=
  s.undefinedWord (encode (.undefAddLoLo x))

/-- The unallocated words 0x4500 to 0x453F (rule R176). -/
def execUndefCmpLoLo (x : BitVec 6) (s : State) : Result :=
  s.undefinedWord (encode (.undefCmpLoLo x))

/-- The undefined words 0x4600 to 0x463F (rule R176). -/
def execUndefMovLoLo (x : BitVec 6) (s : State) : Result :=
  s.undefinedWord (encode (.undefMovLoLo x))

/-- The undefined words 0x4780 to 0x47FF (rule R176). -/
def execUndefBxH1 (x : BitVec 7) (s : State) : Result :=
  s.undefinedWord (encode (.undefBxH1 x))

/-- The undefined words 0xDE00 to 0xDEFF (rule R275). -/
def execUndefCond1110 (x : BitVec 8) (s : State) : Result :=
  s.undefinedWord (encode (.undefCond1110 x))

/-- The unallocated words 0xB100 to 0xB1FF (rule R112). -/
def execUndefB1 (x : BitVec 8) (s : State) : Result :=
  s.undefinedWord (encode (.undefB1 x))

/-- The unallocated words 0xB200 to 0xB3FF (rule R112). -/
def execUndefB2B3 (x : BitVec 9) (s : State) : Result :=
  s.undefinedWord (encode (.undefB2B3 x))

/-- The unallocated words 0xB600 to 0xB7FF (rule R112). -/
def execUndefB6B7 (x : BitVec 9) (s : State) : Result :=
  s.undefinedWord (encode (.undefB6B7 x))

/-- The unallocated words 0xB800 to 0xBBFF (rule R112). -/
def execUndefB8BB (x : BitVec 10) (s : State) : Result :=
  s.undefinedWord (encode (.undefB8BB x))

/-- The unallocated words 0xBE00 to 0xBFFF (rule R112). -/
def execUndefBEBF (x : BitVec 9) (s : State) : Result :=
  s.undefinedWord (encode (.undefBEBF x))

/-- The unallocated words 0xE800 to 0xEFFF (rule R112). -/
def execUndefE8EF (x : BitVec 11) (s : State) : Result :=
  s.undefinedWord (encode (.undefE8EF x))

end Sys2Proof.Machine
end

