-- ==== Sys2Proof/Machine/Dispatch.lean ====
section
/-! DEFINITION. The one dispatch from instructions to meanings. -/

namespace Sys2Proof.Machine
open Sys2Proof

def exec (i : Instr) (s : State) : Host.Outcome State Fault Refusal :=
  match i with
  | .lslImm rd rs imm => Sys2Proof.Machine.execLslImm rd rs imm s
  | .lsrImm rd rs imm => Sys2Proof.Machine.execLsrImm rd rs imm s
  | .asrImm rd rs imm => Sys2Proof.Machine.execAsrImm rd rs imm s
  | .addReg rd rs rn => Sys2Proof.Machine.execAddReg rd rs rn s
  | .addImm3 rd rs imm => Sys2Proof.Machine.execAddImm3 rd rs imm s
  | .subReg rd rs rn => Sys2Proof.Machine.execSubReg rd rs rn s
  | .subImm3 rd rs imm => Sys2Proof.Machine.execSubImm3 rd rs imm s
  | .movImm rd imm => Sys2Proof.Machine.execMovImm rd imm s
  | .cmpImm rd imm => Sys2Proof.Machine.execCmpImm rd imm s
  | .addImm8 rd imm => Sys2Proof.Machine.execAddImm8 rd imm s
  | .subImm8 rd imm => Sys2Proof.Machine.execSubImm8 rd imm s
  | .andReg rd rs => Sys2Proof.Machine.execAndReg rd rs s
  | .eorReg rd rs => Sys2Proof.Machine.execEorReg rd rs s
  | .lslReg rd rs => Sys2Proof.Machine.execLslReg rd rs s
  | .lsrReg rd rs => Sys2Proof.Machine.execLsrReg rd rs s
  | .asrReg rd rs => Sys2Proof.Machine.execAsrReg rd rs s
  | .adcReg rd rs => Sys2Proof.Machine.execAdcReg rd rs s
  | .sbcReg rd rs => Sys2Proof.Machine.execSbcReg rd rs s
  | .rorReg rd rs => Sys2Proof.Machine.execRorReg rd rs s
  | .tstReg rd rs => Sys2Proof.Machine.execTstReg rd rs s
  | .negReg rd rs => Sys2Proof.Machine.execNegReg rd rs s
  | .cmpReg rd rs => Sys2Proof.Machine.execCmpReg rd rs s
  | .cmnReg rd rs => Sys2Proof.Machine.execCmnReg rd rs s
  | .orrReg rd rs => Sys2Proof.Machine.execOrrReg rd rs s
  | .mulReg rd rs => Sys2Proof.Machine.execMulReg rd rs s
  | .bicReg rd rs => Sys2Proof.Machine.execBicReg rd rs s
  | .mvnReg rd rs => Sys2Proof.Machine.execMvnReg rd rs s
  | .addLoHi rd hs => Sys2Proof.Machine.execAddLoHi rd hs s
  | .addHiLo hd rs => Sys2Proof.Machine.execAddHiLo hd rs s
  | .addHiHi hd hs => Sys2Proof.Machine.execAddHiHi hd hs s
  | .cmpLoHi rd hs => Sys2Proof.Machine.execCmpLoHi rd hs s
  | .cmpHiLo hd rs => Sys2Proof.Machine.execCmpHiLo hd rs s
  | .cmpHiHi hd hs => Sys2Proof.Machine.execCmpHiHi hd hs s
  | .movLoHi rd hs => Sys2Proof.Machine.execMovLoHi rd hs s
  | .movHiLo hd rs => Sys2Proof.Machine.execMovHiLo hd rs s
  | .movHiHi hd hs => Sys2Proof.Machine.execMovHiHi hd hs s
  | .bxLo rs sbz => Sys2Proof.Machine.execBxLo rs sbz s
  | .bxHi hs sbz => Sys2Proof.Machine.execBxHi hs sbz s
  | .undefAddLoLo x => Sys2Proof.Machine.execUndefAddLoLo x s
  | .undefCmpLoLo x => Sys2Proof.Machine.execUndefCmpLoLo x s
  | .undefMovLoLo x => Sys2Proof.Machine.execUndefMovLoLo x s
  | .undefBxH1 x => Sys2Proof.Machine.execUndefBxH1 x s
  | .ldrPc rd word8 => Sys2Proof.Machine.execLdrPc rd word8 s
  | .strReg rd rb ro => Sys2Proof.Machine.execStrReg rd rb ro s
  | .strbReg rd rb ro => Sys2Proof.Machine.execStrbReg rd rb ro s
  | .ldrReg rd rb ro => Sys2Proof.Machine.execLdrReg rd rb ro s
  | .ldrbReg rd rb ro => Sys2Proof.Machine.execLdrbReg rd rb ro s
  | .strhReg rd rb ro => Sys2Proof.Machine.execStrhReg rd rb ro s
  | .ldrhReg rd rb ro => Sys2Proof.Machine.execLdrhReg rd rb ro s
  | .ldsbReg rd rb ro => Sys2Proof.Machine.execLdsbReg rd rb ro s
  | .ldshReg rd rb ro => Sys2Proof.Machine.execLdshReg rd rb ro s
  | .strImm rd rb off5 => Sys2Proof.Machine.execStrImm rd rb off5 s
  | .ldrImm rd rb off5 => Sys2Proof.Machine.execLdrImm rd rb off5 s
  | .strbImm rd rb off5 => Sys2Proof.Machine.execStrbImm rd rb off5 s
  | .ldrbImm rd rb off5 => Sys2Proof.Machine.execLdrbImm rd rb off5 s
  | .strhImm rd rb off5 => Sys2Proof.Machine.execStrhImm rd rb off5 s
  | .ldrhImm rd rb off5 => Sys2Proof.Machine.execLdrhImm rd rb off5 s
  | .strSp rd word8 => Sys2Proof.Machine.execStrSp rd word8 s
  | .ldrSp rd word8 => Sys2Proof.Machine.execLdrSp rd word8 s
  | .addPc rd word8 => Sys2Proof.Machine.execAddPc rd word8 s
  | .addSpRd rd word8 => Sys2Proof.Machine.execAddSpRd rd word8 s
  | .addSpPos sword7 => Sys2Proof.Machine.execAddSpPos sword7 s
  | .addSpNeg sword7 => Sys2Proof.Machine.execAddSpNeg sword7 s
  | .push rlist => Sys2Proof.Machine.execPush rlist s
  | .pushLr rlist => Sys2Proof.Machine.execPushLr rlist s
  | .pop rlist => Sys2Proof.Machine.execPop rlist s
  | .popPc rlist => Sys2Proof.Machine.execPopPc rlist s
  | .stmia rb rlist => Sys2Proof.Machine.execStmia rb rlist s
  | .ldmia rb rlist => Sys2Proof.Machine.execLdmia rb rlist s
  | .beq soff8 => Sys2Proof.Machine.execBeq soff8 s
  | .bne soff8 => Sys2Proof.Machine.execBne soff8 s
  | .bcs soff8 => Sys2Proof.Machine.execBcs soff8 s
  | .bcc soff8 => Sys2Proof.Machine.execBcc soff8 s
  | .bmi soff8 => Sys2Proof.Machine.execBmi soff8 s
  | .bpl soff8 => Sys2Proof.Machine.execBpl soff8 s
  | .bvs soff8 => Sys2Proof.Machine.execBvs soff8 s
  | .bvc soff8 => Sys2Proof.Machine.execBvc soff8 s
  | .bhi soff8 => Sys2Proof.Machine.execBhi soff8 s
  | .bls soff8 => Sys2Proof.Machine.execBls soff8 s
  | .bge soff8 => Sys2Proof.Machine.execBge soff8 s
  | .blt soff8 => Sys2Proof.Machine.execBlt soff8 s
  | .bgt soff8 => Sys2Proof.Machine.execBgt soff8 s
  | .ble soff8 => Sys2Proof.Machine.execBle soff8 s
  | .undefCond1110 x => Sys2Proof.Machine.execUndefCond1110 x s
  | .swi value8 => Sys2Proof.Machine.execSwi value8 s
  | .b off11 => Sys2Proof.Machine.execB off11 s
  | .blHigh off11 => Sys2Proof.Machine.execBlHigh off11 s
  | .blLow off11 => Sys2Proof.Machine.execBlLow off11 s
  | .undefB1 x => Sys2Proof.Machine.execUndefB1 x s
  | .undefB2B3 x => Sys2Proof.Machine.execUndefB2B3 x s
  | .undefB6B7 x => Sys2Proof.Machine.execUndefB6B7 x s
  | .undefB8BB x => Sys2Proof.Machine.execUndefB8BB x s
  | .undefBEBF x => Sys2Proof.Machine.execUndefBEBF x s
  | .undefE8EF x => Sys2Proof.Machine.execUndefE8EF x s

end Sys2Proof.Machine
end

