-- ==== Sys2Proof/Machine/Step.lean ====
section
/-! DEFINITION. One step of the machine, and the state with an instruction placed where the next step fetches (rules R4,
R54, R308). -/

namespace Sys2Proof.Machine

/-- One step: in THUMB state fetch, decode and execute; in ARM state there is nothing to execute, since the 32-bit
instruction set is out of scope, so the run ends with the outcome that led there (rules R4, R5, R54, R300, R308). -/
def step (s : State) : Host.Outcome State Fault Refusal :=
  if s.cpsr.t then
    match s.fetch with
    | .error f => .fault f
    | .ok w => exec (decode w) s
  else .refused (.armState s.pc s.lastExit)

/-- The state with an instruction's bits stored at `pc` in the state's byte order. -/
def State.withFetchWord (s : State) (nbits w : Nat) : State :=
  s.poke s.pc .half (BitVec.ofNat 32 (w % 2 ^ min nbits 16))

end Sys2Proof.Machine
end

