-- ==== Sys2Proof/Safety.lean ====
section
/-! DEFINITION. The terms statements are made in: what an instruction leaves unchanged, results and memory values by the
spec's own formulas, which accesses complete, the kinds of instruction, and the invariant of a run. -/

namespace Sys2Proof.Machine

/-! ### What stays -/

/-- No byte of memory. -/
def noBytes : Nat → Prop :=
  fun _ => False

/-- The `n` bytes at an address. -/
def bytesAt (a : Word) (n : Nat) : Nat → Prop :=
  fun x => a.toNat ≤ x ∧ x < a.toNat + n

/-- The word address `k` words above an address, modulo 2^32 (rule R240). -/
def slot (a : Word) (k : Nat) : Word :=
  a + BitVec.ofNat 32 (4 * k)

/-- The bytes of `n` words at rising word addresses. -/
def wordsAt (a : Word) (n : Nat) : Nat → Prop :=
  fun x => ∃ k, k < n ∧ bytesAt (slot a k) 4 x

/-- From `s` to `t` nothing changes but the listed registers, the given bytes of memory, the pc, the CPSR and the
model's count of draws; the recorded way out of THUMB state stays. -/
structure Frame (s t : State) (written : List PReg) (stored : Nat → Prop) : Prop where
  regs : ∀ p, p ∉ written → t.regs.get p = s.regs.get p
  mem : ∀ x, ¬ stored x → t.mem.read x = s.mem.read x
  spsr : t.spsr = s.spsr
  endian : t.endian = s.endian
  memAdmit : t.memAdmit = s.memAdmit
  codeRange : t.codeRange = s.codeRange
  lastExit : t.lastExit = s.lastExit

/-- Control goes on to the next halfword, and nothing changes but the listed registers and the CPSR (rule R25). -/
structure FallsThrough (s t : State) (written : List PReg) : Prop where
  pc : t.pc = s.pc + 2
  frame : Frame s t written noBytes

/-- One register gets a value, control goes on, and nothing else changes. -/
structure WritesOnly (s t : State) (p : PReg) (v : Word) : Prop where
  value : t.regs.get p = v
  cpsr : t.cpsr = s.cpsr
  rest : FallsThrough s t [p]

/-- Control goes to an address, and nothing else changes. -/
structure JumpsOnly (s t : State) (target : Word) : Prop where
  pc : t.pc = target
  cpsr : t.cpsr = s.cpsr
  frame : Frame s t [] noBytes

/-! ### Results by the spec's formulas -/

/-- The status register after a result: N and Z from it (rule R32), C and V as given, the other bits as before. -/
def Psr.after (p : Psr) (r : Word) (c v : Bool) : Psr :=
  { p with n := decide (2 ^ 31 ≤ r.toNat), z := decide (r.toNat = 0), c := c, v := v }

/-- `r` and the status register `q` are those of `a + b + k` from the status register `p` (rule R11). -/
def IsSum (p q : Psr) (a b : Word) (k : Nat) (r : Word) : Prop :=
  r.toNat = (a.toNat + b.toNat + k) % 2 ^ 32 ∧
    q = p.after r (decide (2 ^ 32 ≤ a.toNat + b.toNat + k)) (decide (r.toInt ≠ a.toInt + b.toInt + k))

/-- `r` and the status register `q` are those of `a - b - k` from the status register `p`: C is 1 exactly when no borrow
occurs (rule R11). -/
def IsDiff (p q : Psr) (a b : Word) (k : Nat) (r : Word) : Prop :=
  (r.toNat : Int) = ((a.toNat : Int) - b.toNat - k) % 2 ^ 32 ∧
    q = p.after r (decide (b.toNat + k ≤ a.toNat)) (decide (r.toInt ≠ a.toInt - b.toInt - k))

/-- A value with bit 0 dropped (rule R27). -/
def dropBit0 (v : Word) : Word :=
  BitVec.ofNat 32 (v.toNat / 2 * 2)

/-- The PC of formats 6 and 12: the instruction's address plus 4 with bits 1 and 0 dropped (rule R26). -/
def pcWordBase (pc : Word) : Word :=
  BitVec.ofNat 32 ((pc.toNat + 4) / 4 * 4)

/-! ### Memory by the spec's formulas -/

/-- The `n`-byte value at an address: the two sums of rule R52. -/
def memValue (e : Endian) (m : Memory) (a : Word) (w : Width) : Nat :=
  match w, e with
  | .byte, _ => (m.read a.toNat).toNat
  | .half, .little => (m.read a.toNat).toNat + 2 ^ 8 * (m.read (a + 1).toNat).toNat
  | .half, .big => 2 ^ 8 * (m.read a.toNat).toNat + (m.read (a + 1).toNat).toNat
  | .word, .little =>
    (m.read a.toNat).toNat + 2 ^ 8 * (m.read (a + 1).toNat).toNat + 2 ^ 16 * (m.read (a + 2).toNat).toNat +
      2 ^ 24 * (m.read (a + 3).toNat).toNat
  | .word, .big =>
    2 ^ 24 * (m.read a.toNat).toNat + 2 ^ 16 * (m.read (a + 1).toNat).toNat + 2 ^ 8 * (m.read (a + 2).toNat).toNat +
      (m.read (a + 3).toNat).toNat

/-- The value at an address in the state's memory and byte order. -/
def State.value (s : State) (a : Word) (w : Width) : Nat :=
  memValue s.endian s.mem a w

/-- A data read completes: aligned and admitted (rules R53, R55). -/
structure State.Readable (s : State) (a : Word) (w : Width) : Prop where
  aligned : a.toNat % w.bytes = 0
  admitted : s.admits a w .read = true

/-- A data write completes: aligned, outside the program's code, admitted (rules R53, R55, R66). -/
structure State.Writable (s : State) (a : Word) (w : Width) : Prop where
  aligned : a.toNat % w.bytes = 0
  notCode : s.touchesCode a w = false
  admitted : s.admits a w .write = true

/-- How an access that reads at an address stops (rules R53, R55, R56). -/
structure LoadStops (s : State) (a : Word) (w : Width) (r : Result) : Prop where
  unaligned : a.toNat % w.bytes ≠ 0 → r = .fault (.alignmentFault a w s.pc)
  refused : a.toNat % w.bytes = 0 → s.admits a w .read = false → r = .fault (.dataAbort a w .read s.pc)

/-- How an access that writes at an address stops (rules R53, R55, R56, R66). -/
structure StoreStops (s : State) (a : Word) (w : Width) (r : Result) : Prop where
  unaligned : a.toNat % w.bytes ≠ 0 → r = .fault (.alignmentFault a w s.pc)
  code : a.toNat % w.bytes = 0 → s.touchesCode a w = true → r = .fault (.unpredictable .storeToCode s.pc)
  refused : a.toNat % w.bytes = 0 → s.touchesCode a w = false → s.admits a w .write = false →
    r = .fault (.dataAbort a w .write s.pc)

/-- A transfer of `n` words from an address stops as its first access that does not complete (rules R56, R240). -/
def LoadManyStops (s : State) (a : Word) (n : Nat) (r : Result) : Prop :=
  ∀ k, k < n → (∀ j, j < k → s.Readable (slot a j) .word) → LoadStops s (slot a k) .word r

/-- A transfer of `n` words to an address stops as its first access that does not complete (rules R56, R240). -/
def StoreManyStops (s : State) (a : Word) (n : Nat) (r : Result) : Prop :=
  ∀ k, k < n → (∀ j, j < k → s.Writable (slot a j) .word) → StoreStops s (slot a k) .word r

/-- The bytes at an address hold a value, control goes on, and nothing else changes. -/
structure StoresOnly (s t : State) (a : Word) (w : Width) (v : Word) : Prop where
  value : t.value a w = v.toNat % 2 ^ (8 * w.bytes)
  cpsr : t.cpsr = s.cpsr
  pc : t.pc = s.pc + 2
  frame : Frame s t [] (bytesAt a w.bytes)

/-- The stop at the top of the address space after a register got a value, with nothing else changed (rules R28, R304). -/
def WrapsWriting (s : State) (p : PReg) (v : Word) (r : Result) : Prop :=
  ∃ w, r = .fault (.unpredictable (.pcWrap w) s.pc) ∧ w.regs.get p = v ∧ w.cpsr = s.cpsr ∧ w.pc = s.pc ∧
    Frame s w [p] noBytes

/-- The stop at the top of the address space after a comparison set the flags, with nothing else changed (rules R28,
R304). -/
def WrapsComparing (s : State) (a b : Word) (r : Result) : Prop :=
  ∃ w d, r = .fault (.unpredictable (.pcWrap w) s.pc) ∧ IsDiff s.cpsr w.cpsr a b 0 d ∧ w.pc = s.pc ∧
    Frame s w [] noBytes

/-! ### Kinds of instruction -/

/-- What an instruction works on (rule R30 and the formats' common rules). -/
inductive Kind where
  /-- LSL, LSR, ASR, ROR. -/
  | shift
  /-- ADD, SUB, CMP, ADC, SBC, NEG, CMN of formats 2 to 4. -/
  | arithmetic
  /-- AND, EOR, TST, ORR, BIC, MVN, and MOV of format 3. -/
  | logical
  /-- MUL. -/
  | multiply
  /-- CMP of format 5. -/
  | hiCompare
  /-- ADD and MOV of format 5. -/
  | hiMove
  /-- BX. -/
  | exchange
  /-- Loads of one register. -/
  | load
  /-- Stores of one register. -/
  | store
  /-- Formats 12 and 13. -/
  | address
  /-- PUSH and STMIA. -/
  | storeMany
  /-- POP and LDMIA. -/
  | loadMany
  /-- Format 16. -/
  | condBranch
  /-- Format 18. -/
  | branch
  /-- The two instructions of BL. -/
  | link
  /-- SWI. -/
  | swi
  /-- The undefined words. -/
  | undefinedWord
deriving DecidableEq, Repr

/-- The kind of an instruction. -/
def kindOf : Instr → Kind
  | .lslImm _ _ _ => .shift
  | .lsrImm _ _ _ => .shift
  | .asrImm _ _ _ => .shift
  | .addReg _ _ _ => .arithmetic
  | .addImm3 _ _ _ => .arithmetic
  | .subReg _ _ _ => .arithmetic
  | .subImm3 _ _ _ => .arithmetic
  | .movImm _ _ => .logical
  | .cmpImm _ _ => .arithmetic
  | .addImm8 _ _ => .arithmetic
  | .subImm8 _ _ => .arithmetic
  | .andReg _ _ => .logical
  | .eorReg _ _ => .logical
  | .lslReg _ _ => .shift
  | .lsrReg _ _ => .shift
  | .asrReg _ _ => .shift
  | .adcReg _ _ => .arithmetic
  | .sbcReg _ _ => .arithmetic
  | .rorReg _ _ => .shift
  | .tstReg _ _ => .logical
  | .negReg _ _ => .arithmetic
  | .cmpReg _ _ => .arithmetic
  | .cmnReg _ _ => .arithmetic
  | .orrReg _ _ => .logical
  | .mulReg _ _ => .multiply
  | .bicReg _ _ => .logical
  | .mvnReg _ _ => .logical
  | .addLoHi _ _ => .hiMove
  | .addHiLo _ _ => .hiMove
  | .addHiHi _ _ => .hiMove
  | .cmpLoHi _ _ => .hiCompare
  | .cmpHiLo _ _ => .hiCompare
  | .cmpHiHi _ _ => .hiCompare
  | .movLoHi _ _ => .hiMove
  | .movHiLo _ _ => .hiMove
  | .movHiHi _ _ => .hiMove
  | .bxLo _ _ => .exchange
  | .bxHi _ _ => .exchange
  | .undefAddLoLo _ => .undefinedWord
  | .undefCmpLoLo _ => .undefinedWord
  | .undefMovLoLo _ => .undefinedWord
  | .undefBxH1 _ => .undefinedWord
  | .ldrPc _ _ => .load
  | .strReg _ _ _ => .store
  | .strbReg _ _ _ => .store
  | .ldrReg _ _ _ => .load
  | .ldrbReg _ _ _ => .load
  | .strhReg _ _ _ => .store
  | .ldrhReg _ _ _ => .load
  | .ldsbReg _ _ _ => .load
  | .ldshReg _ _ _ => .load
  | .strImm _ _ _ => .store
  | .ldrImm _ _ _ => .load
  | .strbImm _ _ _ => .store
  | .ldrbImm _ _ _ => .load
  | .strhImm _ _ _ => .store
  | .ldrhImm _ _ _ => .load
  | .strSp _ _ => .store
  | .ldrSp _ _ => .load
  | .addPc _ _ => .address
  | .addSpRd _ _ => .address
  | .addSpPos _ => .address
  | .addSpNeg _ => .address
  | .push _ => .storeMany
  | .pushLr _ => .storeMany
  | .pop _ => .loadMany
  | .popPc _ => .loadMany
  | .stmia _ _ => .storeMany
  | .ldmia _ _ => .loadMany
  | .beq _ => .condBranch
  | .bne _ => .condBranch
  | .bcs _ => .condBranch
  | .bcc _ => .condBranch
  | .bmi _ => .condBranch
  | .bpl _ => .condBranch
  | .bvs _ => .condBranch
  | .bvc _ => .condBranch
  | .bhi _ => .condBranch
  | .bls _ => .condBranch
  | .bge _ => .condBranch
  | .blt _ => .condBranch
  | .bgt _ => .condBranch
  | .ble _ => .condBranch
  | .undefCond1110 _ => .undefinedWord
  | .swi _ => .swi
  | .b _ => .branch
  | .blHigh _ => .link
  | .blLow _ => .link
  | .undefB1 _ => .undefinedWord
  | .undefB2B3 _ => .undefinedWord
  | .undefB6B7 _ => .undefinedWord
  | .undefB8BB _ => .undefinedWord
  | .undefBEBF _ => .undefinedWord
  | .undefE8EF _ => .undefinedWord

/-! ### Registers of a mode -/

/-- A physical register the instructions of a mode can name (rules R21, R22, R24). -/
def Visible (m : Mode) (p : PReg) : Prop :=
  (∃ r, p = loPReg r) ∨ (∃ h, some p = hiPReg m h)

/-! ### Runs -/

/-- The invariant of a run: memory in canonical form, and the pc aligned for the state the processor is in (rules R25,
R54, R175). -/
structure RunInv (s : State) : Prop where
  mem : s.mem.wf = true
  thumb : s.cpsr.t = true → s.pc.toNat % 2 = 0
  arm : s.cpsr.t = false → s.pc.toNat % 4 = 0

/-- `n` steps lead from `s` to `t` without a stop. -/
def Reaches : Nat → State → State → Prop
  | 0, s, t => s = t
  | n + 1, s, t => ∃ u, step s = .next u ∧ Reaches n u t

/-- A run of `n` steps from `s` is safe: it meets no fault and no refusal. -/
def SafeFor (n : Nat) (s : State) : Prop :=
  ∃ t, Reaches n s t

end Sys2Proof.Machine
end

