-- ==== Sys2Proof/WellFormed.lean ====
section
/-! DEFINITION. The instructions the spec lets software write: every field of a term fits its word by its type, so what
is left to check is what the spec forbids (rules R111 to R113, R175, R248). -/

namespace Sys2Proof

/-- Bits 2:0 of BX are zero (rule R175, decision D26). -/
def sbzOk (sbz : BitVec 3) : Bool :=
  sbz == 0#3

/-- A register list names at least one register (rules R113, R248). -/
def listOk (rlist : BitVec 8) : Bool :=
  rlist != 0#8

/-- The base register of an STMIA is not in its list, or is the lowest register in it (rule R248). -/
def stmBaseOk (rb : LoReg) (rlist : BitVec 8) : Bool :=
  !baseNotLowest rb rlist

/-- The instruction is one the spec gives a defined action for some state of the machine: not an undefined word, and
none of the operand uses that are refused whatever the state. -/
def Instr.wellFormed : Instr → Bool
  | .lslImm _ _ _ => true
  | .lsrImm _ _ _ => true
  | .asrImm _ _ _ => true
  | .addReg _ _ _ => true
  | .addImm3 _ _ _ => true
  | .subReg _ _ _ => true
  | .subImm3 _ _ _ => true
  | .movImm _ _ => true
  | .cmpImm _ _ => true
  | .addImm8 _ _ => true
  | .subImm8 _ _ => true
  | .andReg _ _ => true
  | .eorReg _ _ => true
  | .lslReg _ _ => true
  | .lsrReg _ _ => true
  | .asrReg _ _ => true
  | .adcReg _ _ => true
  | .sbcReg _ _ => true
  | .rorReg _ _ => true
  | .tstReg _ _ => true
  | .negReg _ _ => true
  | .cmpReg _ _ => true
  | .cmnReg _ _ => true
  | .orrReg _ _ => true
  | .mulReg _ _ => true
  | .bicReg _ _ => true
  | .mvnReg _ _ => true
  | .addLoHi _ _ => true
  | .addHiLo _ _ => true
  | .addHiHi _ _ => true
  | .cmpLoHi _ _ => true
  | .cmpHiLo _ _ => true
  | .cmpHiHi _ _ => true
  | .movLoHi _ _ => true
  | .movHiLo _ _ => true
  | .movHiHi _ _ => true
  | .bxLo _ sbz => sbzOk sbz
  | .bxHi _ sbz => sbzOk sbz
  | .undefAddLoLo _ => false
  | .undefCmpLoLo _ => false
  | .undefMovLoLo _ => false
  | .undefBxH1 _ => false
  | .ldrPc _ _ => true
  | .strReg _ _ _ => true
  | .strbReg _ _ _ => true
  | .ldrReg _ _ _ => true
  | .ldrbReg _ _ _ => true
  | .strhReg _ _ _ => true
  | .ldrhReg _ _ _ => true
  | .ldsbReg _ _ _ => true
  | .ldshReg _ _ _ => true
  | .strImm _ _ _ => true
  | .ldrImm _ _ _ => true
  | .strbImm _ _ _ => true
  | .ldrbImm _ _ _ => true
  | .strhImm _ _ _ => true
  | .ldrhImm _ _ _ => true
  | .strSp _ _ => true
  | .ldrSp _ _ => true
  | .addPc _ _ => true
  | .addSpRd _ _ => true
  | .addSpPos _ => true
  | .addSpNeg _ => true
  | .push rlist => listOk rlist
  | .pushLr _ => true
  | .pop rlist => listOk rlist
  | .popPc _ => true
  | .stmia rb rlist => listOk rlist && stmBaseOk rb rlist
  | .ldmia _ rlist => listOk rlist
  | .beq _ => true
  | .bne _ => true
  | .bcs _ => true
  | .bcc _ => true
  | .bmi _ => true
  | .bpl _ => true
  | .bvs _ => true
  | .bvc _ => true
  | .bhi _ => true
  | .bls _ => true
  | .bge _ => true
  | .blt _ => true
  | .bgt _ => true
  | .ble _ => true
  | .undefCond1110 _ => false
  | .swi _ => true
  | .b _ => true
  | .blHigh _ => true
  | .blLow _ => true
  | .undefB1 _ => false
  | .undefB2B3 _ => false
  | .undefB6B7 _ => false
  | .undefB8BB _ => false
  | .undefBEBF _ => false
  | .undefE8EF _ => false

end Sys2Proof
end

