-- ==== Sys2Proof/Certificates/Slice0/Obligations.lean ====
section
/-! DEFINITION. The statements for the provers. -/

section Slice0Statements

open Sys2Proof Sys2Proof.Machine

/-- For every instruction, with every operand at every value its fields can hold, decoding its encoded word gives that
instruction: no bit of an encoding is dropped. Cites R110, R81, R82, R83, R84, R85, R93, R94, R95, R96, R99. -/
def Obligations.DecodeEncode : Prop :=
  ∀ i : Instr, decode (encode i) = i

/-- For each of the 65536 words, the word of the instruction it decodes to is that word: no two words decode alike and
every bit of a word is a field or a fixed bit. Cites R110, R111, R112. -/
def Obligations.EncodeDecode : Prop :=
  ∀ w : Half, encode (decode w) = w

/-- For every word and every instruction, the word agrees with the mask and match value of the instruction's row of the
opcode table if and only if the word decodes to an instruction of that row. So every word falls in exactly one row.
Cites R110. -/
def Obligations.OneRowPerWord : Prop :=
  ∀ (w : Half) (i : Instr), w &&& i.tableRow.1 = i.tableRow.2 ↔ (decode w).tableRow = i.tableRow

/-- A word is one of rules R111 and R112 (0x4400 to 0x443F, 0x4500 to 0x453F, 0x4600 to 0x463F, 0x4780 to 0x47FF, 0xB100
to 0xB3FF, 0xB600 to 0xBBFF, 0xBE00 to 0xBFFF, 0xDE00 to 0xDEFF, 0xE800 to 0xEFFF) exactly when the decoder names it
an undefined word, and executing it ends in UndefinedInstruction with the word and the address of the word, before
any state change. That these words stop is the model's choice D5 (log entry 15). Cites R111, R112, R302, R300. -/
def Obligations.UndefinedWords : Prop :=
  ∀ (w : Half) (s : State),
    let inRange := fun (a b : Nat) => a ≤ w.toNat ∧ w.toNat ≤ b
    ((decode w).isUndefined = true ↔
      inRange 0x4400 0x443F ∨ inRange 0x4500 0x453F ∨ inRange 0x4600 0x463F ∨ inRange 0x4780 0x47FF ∨
        inRange 0xB100 0xB3FF ∨ inRange 0xB600 0xBBFF ∨ inRange 0xBE00 0xBFFF ∨ inRange 0xDE00 0xDEFF ∨
        inRange 0xE800 0xEFFF) ∧
    ((decode w).isUndefined = true → exec (decode w) s = .fault (.undefinedInstruction w s.pc))

/-- Executing a word of a block of undefined words answers UndefinedInstruction with that word, written out from its
block's fixed bits, and its address. This is the conclusion for the eleven constructors that stop on every path.
That they stop is the model's choice D5 (log entry 15). Cites R111, R112, R176, R275, R302. -/
def Obligations.UndefinedInstructionsStop : Prop :=
  ∀ (s : State) (x6 : BitVec 6) (x7 : BitVec 7) (x8 : BitVec 8) (x9 : BitVec 9) (x10 : BitVec 10) (x11 : BitVec 11),
    ∀ e ∈ [(Instr.undefAddLoLo x6, (0b0100010000#10 ++ x6 : Half)), (.undefCmpLoLo x6, 0b0100010100#10 ++ x6),
        (.undefMovLoLo x6, 0b0100011000#10 ++ x6), (.undefBxH1 x7, 0b010001111#9 ++ x7),
        (.undefCond1110 x8, 0b11011110#8 ++ x8), (.undefB1 x8, 0b10110001#8 ++ x8),
        (.undefB2B3 x9, 0b1011001#7 ++ x9), (.undefB6B7 x9, 0b1011011#7 ++ x9),
        (.undefB8BB x10, 0b101110#6 ++ x10), (.undefBEBF x9, 0b1011111#7 ++ x9),
        (.undefE8EF x11, 0b11101#5 ++ x11)],
      decode e.2 = e.1 ∧ exec e.1 s = .fault (.undefinedInstruction e.2 s.pc)

/-- One word of each of twelve rules' examples, as the spec prints it, decodes to the instruction the spec gives for it.
Cites R121, R126, R172, R175, R191, R233, R242, R246, R261, R277, R279, R281. -/
def Obligations.SampleWords : Prop :=
  decode 0x0108#16 = .lslImm .r0 .r1 4#5 ∧ decode 0x1918#16 = .addReg .r0 .r3 .r4 ∧
    decode 0x44AF#16 = .addHiLo .r15 .r5 ∧ decode 0x4758#16 = .bxHi .r11 0#3 ∧
    decode 0x4BD3#16 = .ldrPc .r3 211#8 ∧ decode 0xB043#16 = .addSpPos 67#7 ∧
    decode 0xB51F#16 = .pushLr 0x1F#8 ∧ decode 0xC0F8#16 = .stmia .r0 0xF8#8 ∧
    decode 0xD000#16 = .beq 0#8 ∧ decode 0xDF12#16 = .swi 18#8 ∧
    decode 0xE7FE#16 = .b 0x7FE#11 ∧ decode 0xF001#16 = .blHigh 1#11

/-- In THUMB state, at an even pc whose fetch the platform admits, if the two bytes at the pc, joined in the state's
byte order, decode to an instruction, then a step is that instruction's meaning on the same state; the step adds
nothing around it. Cites R54, R52, R308. -/
def Obligations.StepRunsDecoded : Prop :=
  ∀ (s : State) (i : Instr) (b0 b1 : Byte), s.cpsr.t = true → s.pc.toNat % 2 = 0 →
    s.admits s.pc .half .fetch = true → s.mem.read s.pc.toNat = b0 → s.mem.read (s.pc.toNat + 1) = b1 →
    decode (match s.endian with | .little => b1 ++ b0 | .big => b0 ++ b1) = i → step s = exec i s

/-- For every value of every field: the word with the fixed bits, the operation bits and the fields of the table of
formats 1, 2, 3, 4, 6 or 7 in their places decodes to that table's instruction with those fields, and is the word
that instruction is encoded in. The operation value 11 of format 1 is format 2. Cites R81, R82, R83, R84, R86, R87. -/
def Obligations.FormatWordsOneToSeven : Prop :=
  ∀ (rd rs rn rb ro : LoReg) (imm5 : BitVec 5) (imm3 : BitVec 3) (imm8 : BitVec 8),
    ∀ e ∈ [((0b00000#5 ++ imm5 ++ rs.toBits ++ rd.toBits : Half), Instr.lslImm rd rs imm5),
        (0b00001#5 ++ imm5 ++ rs.toBits ++ rd.toBits, .lsrImm rd rs imm5),
        (0b00010#5 ++ imm5 ++ rs.toBits ++ rd.toBits, .asrImm rd rs imm5),
        (0b0001100#7 ++ rn.toBits ++ rs.toBits ++ rd.toBits, .addReg rd rs rn),
        (0b0001110#7 ++ imm3 ++ rs.toBits ++ rd.toBits, .addImm3 rd rs imm3),
        (0b0001101#7 ++ rn.toBits ++ rs.toBits ++ rd.toBits, .subReg rd rs rn),
        (0b0001111#7 ++ imm3 ++ rs.toBits ++ rd.toBits, .subImm3 rd rs imm3),
        (0b00100#5 ++ rd.toBits ++ imm8, .movImm rd imm8), (0b00101#5 ++ rd.toBits ++ imm8, .cmpImm rd imm8),
        (0b00110#5 ++ rd.toBits ++ imm8, .addImm8 rd imm8), (0b00111#5 ++ rd.toBits ++ imm8, .subImm8 rd imm8),
        (0b0100000000#10 ++ rs.toBits ++ rd.toBits, .andReg rd rs),
        (0b0100000001#10 ++ rs.toBits ++ rd.toBits, .eorReg rd rs),
        (0b0100000010#10 ++ rs.toBits ++ rd.toBits, .lslReg rd rs),
        (0b0100000011#10 ++ rs.toBits ++ rd.toBits, .lsrReg rd rs),
        (0b0100000100#10 ++ rs.toBits ++ rd.toBits, .asrReg rd rs),
        (0b0100000101#10 ++ rs.toBits ++ rd.toBits, .adcReg rd rs),
        (0b0100000110#10 ++ rs.toBits ++ rd.toBits, .sbcReg rd rs),
        (0b0100000111#10 ++ rs.toBits ++ rd.toBits, .rorReg rd rs),
        (0b0100001000#10 ++ rs.toBits ++ rd.toBits, .tstReg rd rs),
        (0b0100001001#10 ++ rs.toBits ++ rd.toBits, .negReg rd rs),
        (0b0100001010#10 ++ rs.toBits ++ rd.toBits, .cmpReg rd rs),
        (0b0100001011#10 ++ rs.toBits ++ rd.toBits, .cmnReg rd rs),
        (0b0100001100#10 ++ rs.toBits ++ rd.toBits, .orrReg rd rs),
        (0b0100001101#10 ++ rs.toBits ++ rd.toBits, .mulReg rd rs),
        (0b0100001110#10 ++ rs.toBits ++ rd.toBits, .bicReg rd rs),
        (0b0100001111#10 ++ rs.toBits ++ rd.toBits, .mvnReg rd rs),
        (0b01001#5 ++ rd.toBits ++ imm8, .ldrPc rd imm8),
        (0b0101000#7 ++ ro.toBits ++ rb.toBits ++ rd.toBits, .strReg rd rb ro),
        (0b0101010#7 ++ ro.toBits ++ rb.toBits ++ rd.toBits, .strbReg rd rb ro),
        (0b0101100#7 ++ ro.toBits ++ rb.toBits ++ rd.toBits, .ldrReg rd rb ro),
        (0b0101110#7 ++ ro.toBits ++ rb.toBits ++ rd.toBits, .ldrbReg rd rb ro)],
      decode e.1 = e.2 ∧ encode e.2 = e.1

/-- For every value of every field: the word with the fixed bits, the flag bits and the fields of the table of formats 9
to 14, 18 or 19 in their places decodes to that table's instruction with those fields, and is the word that
instruction is encoded in. Cites R89, R90, R91, R92, R93, R94, R98, R99. -/
def Obligations.FormatWordsNineToNineteen : Prop :=
  ∀ (rd rb : LoReg) (imm5 : BitVec 5) (imm8 : BitVec 8) (imm7 : BitVec 7) (imm11 : BitVec 11),
    ∀ e ∈ [((0b01100#5 ++ imm5 ++ rb.toBits ++ rd.toBits : Half), Instr.strImm rd rb imm5),
        (0b01101#5 ++ imm5 ++ rb.toBits ++ rd.toBits, .ldrImm rd rb imm5),
        (0b01110#5 ++ imm5 ++ rb.toBits ++ rd.toBits, .strbImm rd rb imm5),
        (0b01111#5 ++ imm5 ++ rb.toBits ++ rd.toBits, .ldrbImm rd rb imm5),
        (0b10000#5 ++ imm5 ++ rb.toBits ++ rd.toBits, .strhImm rd rb imm5),
        (0b10001#5 ++ imm5 ++ rb.toBits ++ rd.toBits, .ldrhImm rd rb imm5),
        (0b10010#5 ++ rd.toBits ++ imm8, .strSp rd imm8), (0b10011#5 ++ rd.toBits ++ imm8, .ldrSp rd imm8),
        (0b10100#5 ++ rd.toBits ++ imm8, .addPc rd imm8), (0b10101#5 ++ rd.toBits ++ imm8, .addSpRd rd imm8),
        (0b101100000#9 ++ imm7, .addSpPos imm7), (0b101100001#9 ++ imm7, .addSpNeg imm7),
        (0b10110100#8 ++ imm8, .push imm8), (0b10110101#8 ++ imm8, .pushLr imm8),
        (0b10111100#8 ++ imm8, .pop imm8), (0b10111101#8 ++ imm8, .popPc imm8), (0b11100#5 ++ imm11, .b imm11),
        (0b11110#5 ++ imm11, .blHigh imm11), (0b11111#5 ++ imm11, .blLow imm11)],
      decode e.1 = e.2 ∧ encode e.2 = e.1

/-- At the last halfword of the address space: an instruction that works on Lo registers, SP or memory and does not read
the pc, and that at some other address answers a next state, stops with the reason pc wrap and that state, the pc
kept; the shifts, the arithmetic, logical and multiply ones and the ADDs to and from SP stop so always. ADD and MOV
of format 5 to a register other than R15, ADD Rd, PC, LDR Rd, [PC] of an admitted word and the first half of BL stop
with their register written, CMP of format 5 with its flags, an untaken conditional branch with nothing changed. So
only BX, B, SWI, POP with PC, the second half of BL, ADD and MOV to R15 and a taken conditional branch lead on. The
stop is the model's from GK23 and D15 (log entry 16), the state it carries log entry 18, the wrapping of the sums
log entry 28. The flags of CMP are log entry 22, the sign extension of the first half of BL log entry 26. A Hi
register is the current mode's copy (log entry 14), and a write of R15 branches (log entry 24). Cites R28, R25,
R304, R172, R174, R173, R191, R230, R260, R281. -/
def Obligations.PcWrapStops : Prop :=
  ∀ s : State, 2 ^ 32 ≤ s.pc.toNat + 2 →
    (∀ (i : Instr) (b : Word) (u : State),
      kindOf i ∈ [Kind.shift, .arithmetic, .logical, .multiply, .address, .load, .store, .loadMany, .storeMany] →
      (∀ rd word8, i ≠ .ldrPc rd word8) → (∀ rd word8, i ≠ .addPc rd word8) → (∀ rlist, i ≠ .popPc rlist) →
      exec i (s.setPc b) = .next u →
      exec i s = .fault (.unpredictable (.pcWrap (u.setPc s.pc)) s.pc)) ∧
    (∀ i, kindOf i ∈ [Kind.shift, .arithmetic, .logical, .multiply, .hiCompare, .address] →
      ∃ w, exec i s = .fault (.unpredictable (.pcWrap w) s.pc)) ∧
    (∀ (rd rs : LoReg) (hd hs : HiReg) (p : PReg) (word8 : BitVec 8) (off11 : BitVec 11),
      WrapsWriting s (loPReg rd) (BitVec.ofNat 32 ((s.lo rd).toNat + (s.hi hs).toNat)) (exec (.addLoHi rd hs) s) ∧
      WrapsWriting s (loPReg rd) (s.hi hs) (exec (.movLoHi rd hs) s) ∧
      (hiPReg s.cpsr.mode hd = some p →
        WrapsWriting s p (BitVec.ofNat 32 ((s.hi hd).toNat + (s.lo rs).toNat)) (exec (.addHiLo hd rs) s) ∧
        WrapsWriting s p (BitVec.ofNat 32 ((s.hi hd).toNat + (s.hi hs).toNat)) (exec (.addHiHi hd hs) s) ∧
        WrapsWriting s p (s.lo rs) (exec (.movHiLo hd rs) s) ∧
        WrapsWriting s p (s.hi hs) (exec (.movHiHi hd hs) s)) ∧
      WrapsWriting s (loPReg rd) (BitVec.ofNat 32 ((pcWordBase s.pc).toNat + 4 * word8.toNat))
        (exec (.addPc rd word8) s) ∧
      (∀ a, a = BitVec.ofNat 32 ((pcWordBase s.pc).toNat + 4 * word8.toNat) → s.admits a .word .read = true →
        WrapsWriting s (loPReg rd) (BitVec.ofNat 32 (s.value a .word)) (exec (.ldrPc rd word8) s)) ∧
      WrapsWriting s (lrPReg s.cpsr.mode) (BitVec.ofInt 32 (s.pc.toNat + 4 + 4096 * off11.toInt))
        (exec (.blHigh off11) s) ∧
      WrapsComparing s (s.lo rd) (s.hi hs) (exec (.cmpLoHi rd hs) s) ∧
      WrapsComparing s (s.hi hd) (s.lo rs) (exec (.cmpHiLo hd rs) s) ∧
      WrapsComparing s (s.hi hd) (s.hi hs) (exec (.cmpHiHi hd hs) s)) ∧
    (∀ (off : BitVec 8) (i : Instr) (k : Cond),
      (i, k) ∈ [(Instr.beq off, Cond.eq), (.bne off, .ne), (.bcs off, .cs), (.bcc off, .cc), (.bmi off, .mi),
        (.bpl off, .pl), (.bvs off, .vs), (.bvc off, .vc), (.bhi off, .hi), (.bls off, .ls), (.bge off, .ge),
        (.blt off, .lt), (.bgt off, .gt), (.ble off, .le)] →
      k.holds s.cpsr = false → exec i s = .fault (.unpredictable (.pcWrap s) s.pc)) ∧
    (∀ i t, exec i s = .next t →
      kindOf i ∈ [Kind.exchange, .condBranch, .branch, .swi] ∨ (∃ rlist, i = .popPc rlist) ∨
        (∃ off11, i = .blLow off11) ∨ (∃ rs, i = .addHiLo .r15 rs ∨ i = .movHiLo .r15 rs) ∨
        (∃ hs, i = .addHiHi .r15 hs ∨ i = .movHiHi .r15 hs))

/-- For every register pair and Offset5, with an amount n that for LSR and ASR is 32 when the field is 0: LSL gives v *
2^n modulo 2^32 with C the last bit shifted out (kept for n = 0), LSR gives v / 2^n, ASR gives the signed value
divided by 2^n rounding down, C being bit n - 1; N and Z come from the result, V stays, only Rd and the flags
change, and control goes to pc + 2. The flags are the family's (GK6; log entry 22), the amount 32 for the field 0
too (log entry 26). Cites R100, R121, R122, R123. -/
def Obligations.ShiftImmediateResults : Prop :=
  ∀ (s : State) (rd rs : LoReg) (imm : BitVec 5),
    let v := s.lo rs
    let n := if imm.toNat = 0 then 32 else imm.toNat
    decode (0b00000#5 ++ imm ++ rs.toBits ++ rd.toBits) = .lslImm rd rs imm ∧
    decode (0b00001#5 ++ imm ++ rs.toBits ++ rd.toBits) = .lsrImm rd rs imm ∧
    decode (0b00010#5 ++ imm ++ rs.toBits ++ rd.toBits) = .asrImm rd rs imm ∧
    (s.pc.toNat + 2 < 2 ^ 32 →
      (∃ t, exec (.lslImm rd rs imm) s = .next t ∧ FallsThrough s t [loPReg rd] ∧
        (t.lo rd).toNat = v.toNat * 2 ^ imm.toNat % 2 ^ 32 ∧
        t.cpsr = s.cpsr.after (t.lo rd) (if imm.toNat = 0 then s.cpsr.c else v.getLsbD (32 - imm.toNat)) s.cpsr.v) ∧
      (∃ t, exec (.lsrImm rd rs imm) s = .next t ∧ FallsThrough s t [loPReg rd] ∧
        (t.lo rd).toNat = v.toNat / 2 ^ n ∧ t.cpsr = s.cpsr.after (t.lo rd) (v.getLsbD (n - 1)) s.cpsr.v) ∧
      (∃ t, exec (.asrImm rd rs imm) s = .next t ∧ FallsThrough s t [loPReg rd] ∧
        (t.lo rd).toInt = v.toInt / 2 ^ n ∧ t.cpsr = s.cpsr.after (t.lo rd) (v.getLsbD (n - 1)) s.cpsr.v))

/-- For every choice of registers and Offset3: ADD gives the sum and SUB the difference of Rs and the operand modulo
2^32, C is the carry or the absence of a borrow, V is set exactly when the signed result does not fit, N and Z come
from the result, only Rd and the flags change, and control goes to pc + 2. The flag values are the family's (GK4;
log entry 22). Cites R11, R125, R126, R127, R128, R129. -/
def Obligations.AddSubtractResults : Prop :=
  ∀ (s : State) (rd rs rn : LoReg) (imm : BitVec 3),
    decode (0b0001100#7 ++ rn.toBits ++ rs.toBits ++ rd.toBits) = .addReg rd rs rn ∧
    decode (0b0001110#7 ++ imm ++ rs.toBits ++ rd.toBits) = .addImm3 rd rs imm ∧
    decode (0b0001101#7 ++ rn.toBits ++ rs.toBits ++ rd.toBits) = .subReg rd rs rn ∧
    decode (0b0001111#7 ++ imm ++ rs.toBits ++ rd.toBits) = .subImm3 rd rs imm ∧
    (s.pc.toNat + 2 < 2 ^ 32 →
      (∃ t, exec (.addReg rd rs rn) s = .next t ∧ FallsThrough s t [loPReg rd] ∧
        IsSum s.cpsr t.cpsr (s.lo rs) (s.lo rn) 0 (t.lo rd)) ∧
      (∃ t, exec (.addImm3 rd rs imm) s = .next t ∧ FallsThrough s t [loPReg rd] ∧
        IsSum s.cpsr t.cpsr (s.lo rs) (BitVec.ofNat 32 imm.toNat) 0 (t.lo rd)) ∧
      (∃ t, exec (.subReg rd rs rn) s = .next t ∧ FallsThrough s t [loPReg rd] ∧
        IsDiff s.cpsr t.cpsr (s.lo rs) (s.lo rn) 0 (t.lo rd)) ∧
      (∃ t, exec (.subImm3 rd rs imm) s = .next t ∧ FallsThrough s t [loPReg rd] ∧
        IsDiff s.cpsr t.cpsr (s.lo rs) (BitVec.ofNat 32 imm.toNat) 0 (t.lo rd)))

/-- For every Rd and Offset8: MOV puts the zero-extended byte in Rd with N = 0, Z from it, C and V as before; CMP writes
no register and sets all four flags from Rd - imm; ADD and SUB write the sum and difference and all four flags.
Nothing else changes and control goes to pc + 2. The flags are the family's (GK5; log entry 22). Cites R132, R133,
R134, R135. -/
def Obligations.ImmediateResults : Prop :=
  ∀ (s : State) (rd : LoReg) (imm : BitVec 8),
    let k := BitVec.ofNat 32 imm.toNat
    decode (0b00100#5 ++ rd.toBits ++ imm) = .movImm rd imm ∧
    decode (0b00101#5 ++ rd.toBits ++ imm) = .cmpImm rd imm ∧
    decode (0b00110#5 ++ rd.toBits ++ imm) = .addImm8 rd imm ∧
    decode (0b00111#5 ++ rd.toBits ++ imm) = .subImm8 rd imm ∧
    (s.pc.toNat + 2 < 2 ^ 32 →
      (∃ t, exec (.movImm rd imm) s = .next t ∧ FallsThrough s t [loPReg rd] ∧ t.lo rd = k ∧
        t.cpsr = { s.cpsr with n := false, z := decide (imm.toNat = 0) }) ∧
      (∃ t r, exec (.cmpImm rd imm) s = .next t ∧ FallsThrough s t [] ∧ IsDiff s.cpsr t.cpsr (s.lo rd) k 0 r) ∧
      (∃ t, exec (.addImm8 rd imm) s = .next t ∧ FallsThrough s t [loPReg rd] ∧
        IsSum s.cpsr t.cpsr (s.lo rd) k 0 (t.lo rd)) ∧
      (∃ t, exec (.subImm8 rd imm) s = .next t ∧ FallsThrough s t [loPReg rd] ∧
        IsDiff s.cpsr t.cpsr (s.lo rd) k 0 (t.lo rd)))

/-- For every Rd and Rs, equal or not: bit i of the result is the operation on bit i of the operands read before the
write; N and Z come from the result, C and V stay; TST writes no register, the others write Rd; nothing else changes
and control goes to pc + 2. The flags are the family's (GK5; log entry 22). Cites R140, R141, R142, R149, R153,
R155, R156. -/
def Obligations.LogicalResults : Prop :=
  ∀ (s : State) (rd rs : LoReg),
    decode (0b0100000000#10 ++ rs.toBits ++ rd.toBits) = .andReg rd rs ∧ decode (0b0100000001#10 ++ rs.toBits ++ rd.toBits) = .eorReg rd rs ∧
    decode (0b0100001000#10 ++ rs.toBits ++ rd.toBits) = .tstReg rd rs ∧ decode (0b0100001100#10 ++ rs.toBits ++ rd.toBits) = .orrReg rd rs ∧
    decode (0b0100001110#10 ++ rs.toBits ++ rd.toBits) = .bicReg rd rs ∧ decode (0b0100001111#10 ++ rs.toBits ++ rd.toBits) = .mvnReg rd rs ∧
    (s.pc.toNat + 2 < 2 ^ 32 →
      (∀ e ∈ [(Instr.andReg rd rs, fun a b => a && b), (.eorReg rd rs, fun a b => a != b),
          (.orrReg rd rs, fun a b => a || b), (.bicReg rd rs, fun a b => a && !b), (.mvnReg rd rs, fun _ b => !b)],
        ∃ t, exec e.1 s = .next t ∧ FallsThrough s t [loPReg rd] ∧
          (∀ k, k < 32 → (t.lo rd).getLsbD k = e.2 ((s.lo rd).getLsbD k) ((s.lo rs).getLsbD k)) ∧
          t.cpsr = s.cpsr.after (t.lo rd) s.cpsr.c s.cpsr.v) ∧
      (∃ t r, exec (.tstReg rd rs) s = .next t ∧ FallsThrough s t [] ∧
        (∀ k, k < 32 → r.getLsbD k = ((s.lo rd).getLsbD k && (s.lo rs).getLsbD k)) ∧
        t.cpsr = s.cpsr.after r s.cpsr.c s.cpsr.v))

/-- For every Rd and Rs, equal or not, with the amount n the low byte of Rs: the result is v * 2^n modulo 2^32, v / 2^n,
the signed v divided by 2^n rounding down, or v rotated right by n; C stays for n = 0 and otherwise is the last bit
moved out (0 past 32 for LSL and LSR, the sign for ASR, bit 31 of the result for ROR); N and Z come from the result,
V stays, only Rd and the flags change, and control goes to pc + 2. The amount and the flags are the family's (GK7;
log entry 22). Cites R143, R144, R145, R148. -/
def Obligations.ShiftRegisterResults : Prop :=
  ∀ (s : State) (rd rs : LoReg),
    let v := s.lo rd
    let n := (s.lo rs).toNat % 256
    decode (0b0100000010#10 ++ rs.toBits ++ rd.toBits) = .lslReg rd rs ∧ decode (0b0100000011#10 ++ rs.toBits ++ rd.toBits) = .lsrReg rd rs ∧
    decode (0b0100000100#10 ++ rs.toBits ++ rd.toBits) = .asrReg rd rs ∧ decode (0b0100000111#10 ++ rs.toBits ++ rd.toBits) = .rorReg rd rs ∧
    (s.pc.toNat + 2 < 2 ^ 32 →
      (∃ t, exec (.lslReg rd rs) s = .next t ∧ FallsThrough s t [loPReg rd] ∧
        (t.lo rd).toNat = v.toNat * 2 ^ n % 2 ^ 32 ∧
        t.cpsr = s.cpsr.after (t.lo rd)
          (if n = 0 then s.cpsr.c else if n ≤ 32 then v.getLsbD (32 - n) else false) s.cpsr.v) ∧
      (∃ t, exec (.lsrReg rd rs) s = .next t ∧ FallsThrough s t [loPReg rd] ∧
        (t.lo rd).toNat = v.toNat / 2 ^ n ∧
        t.cpsr = s.cpsr.after (t.lo rd)
          (if n = 0 then s.cpsr.c else if n ≤ 32 then v.getLsbD (n - 1) else false) s.cpsr.v) ∧
      (∃ t, exec (.asrReg rd rs) s = .next t ∧ FallsThrough s t [loPReg rd] ∧
        (t.lo rd).toInt = v.toInt / 2 ^ n ∧
        t.cpsr = s.cpsr.after (t.lo rd)
          (if n = 0 then s.cpsr.c else if n < 32 then v.getLsbD (n - 1) else v.getLsbD 31) s.cpsr.v) ∧
      (∃ t, exec (.rorReg rd rs) s = .next t ∧ FallsThrough s t [loPReg rd] ∧
        (∀ k, k < 32 → (t.lo rd).getLsbD k = v.getLsbD ((k + n) % 32)) ∧
        t.cpsr = s.cpsr.after (t.lo rd) (if n = 0 then s.cpsr.c else (t.lo rd).getLsbD 31) s.cpsr.v))

/-- For every Rd and Rs, equal or not: ADC gives Rd + Rs + C, SBC gives Rd - Rs - NOT C, NEG gives 0 - Rs; CMP and CMN
compute Rd - Rs and Rd + Rs and write no register; all four flags come from the operation, C being the carry or the
absence of a borrow; nothing else changes and control goes to pc + 2. The flags are the family's (GK4; log entry
22). Cites R11, R140, R146, R147, R150, R151, R152. -/
def Obligations.ArithmeticRegisterResults : Prop :=
  ∀ (s : State) (rd rs : LoReg),
    let cin := if s.cpsr.c then 1 else 0
    decode (0b0100000101#10 ++ rs.toBits ++ rd.toBits) = .adcReg rd rs ∧ decode (0b0100000110#10 ++ rs.toBits ++ rd.toBits) = .sbcReg rd rs ∧
    decode (0b0100001001#10 ++ rs.toBits ++ rd.toBits) = .negReg rd rs ∧ decode (0b0100001010#10 ++ rs.toBits ++ rd.toBits) = .cmpReg rd rs ∧
    decode (0b0100001011#10 ++ rs.toBits ++ rd.toBits) = .cmnReg rd rs ∧
    (s.pc.toNat + 2 < 2 ^ 32 →
      (∃ t, exec (.adcReg rd rs) s = .next t ∧ FallsThrough s t [loPReg rd] ∧
        IsSum s.cpsr t.cpsr (s.lo rd) (s.lo rs) cin (t.lo rd)) ∧
      (∃ t, exec (.sbcReg rd rs) s = .next t ∧ FallsThrough s t [loPReg rd] ∧
        IsDiff s.cpsr t.cpsr (s.lo rd) (s.lo rs) (1 - cin) (t.lo rd)) ∧
      (∃ t, exec (.negReg rd rs) s = .next t ∧ FallsThrough s t [loPReg rd] ∧
        IsDiff s.cpsr t.cpsr 0 (s.lo rs) 0 (t.lo rd)) ∧
      (∃ t r, exec (.cmpReg rd rs) s = .next t ∧ FallsThrough s t [] ∧
        IsDiff s.cpsr t.cpsr (s.lo rd) (s.lo rs) 0 r) ∧
      (∃ t r, exec (.cmnReg rd rs) s = .next t ∧ FallsThrough s t [] ∧
        IsSum s.cpsr t.cpsr (s.lo rd) (s.lo rs) 0 r))

/-- For every Rd and Rs, equal or not: Rd gets the product modulo 2^32, N and Z come from it, V stays, C is some bit
about which nothing is claimed, nothing else changes and control goes to pc + 2. C free is the spec's decision D9
(log entry 10), N, Z and V are GK8 (log entry 22). Cites R154. -/
def Obligations.MultiplyResult : Prop :=
  ∀ (s : State) (rd rs : LoReg),
    decode (0b0100001101#10 ++ rs.toBits ++ rd.toBits) = .mulReg rd rs ∧
    (s.pc.toNat + 2 < 2 ^ 32 →
      ∃ (t : State) (c : Bool), exec (.mulReg rd rs) s = .next t ∧ FallsThrough s t [loPReg rd] ∧
        (t.lo rd).toNat = (s.lo rs).toNat * (s.lo rd).toNat % 2 ^ 32 ∧
        t.cpsr = s.cpsr.after (t.lo rd) c s.cpsr.v)

/-- User and System mode share R13 and R14 and every other mode has its own; FIQ mode alone has its own R8 to R12; R15
read as an operand is the instruction's address plus 4 modulo 2^32. The banking is the model's from GK3 (log entry
14). The wrap of R15's value is D21 (log entry 28). Cites R21, R22, R24, R26, R171. -/
def Obligations.RegisterNames : Prop :=
  (∀ m k : Mode, spPReg m = spPReg k ↔ m = k ∨ (m ∈ [Mode.usr, .sys] ∧ k ∈ [Mode.usr, .sys])) ∧
    (∀ m k : Mode, lrPReg m = lrPReg k ↔ m = k ∨ (m ∈ [Mode.usr, .sys] ∧ k ∈ [Mode.usr, .sys])) ∧
    (∀ m k : Mode, ∀ h ∈ [HiReg.r8, .r9, .r10, .r11, .r12],
      hiPReg m h = hiPReg k h ↔ (m = .fiq ↔ k = .fiq)) ∧
    (∀ s : State, s.hi .r13 = s.sp ∧ s.hi .r14 = s.lr ∧ (s.hi .r15).toNat = (s.pc.toNat + 4) % 2 ^ 32)

/-- ADD gives the sum modulo 2^32 of the two registers (R15 reading as the address plus 4) to a Lo register, to a Hi
register below R15, or, with bit 0 dropped, to the pc; no flag and nothing else changes; control goes to pc + 2
unless R15 is written. The form with two Lo registers is undefined. Dropping bit 0 and staying in THUMB state on a
write of R15 is D10 and GK12 (log entry 24); that the undefined word stops is the model's choice D5 (log entry 15).
The sums wrap modulo 2^32 by D21 (log entry 28). A Hi register is the current mode's copy by GK3 (log entry 14).
Cites R172, R176, R177, R302. -/
def Obligations.HiAddResults : Prop :=
  ∀ (s : State) (rd rs : LoReg) (hd hs : HiReg) (x : BitVec 6),
    decode (0b0100010001#10 ++ hs.toBits ++ rd.toBits) = .addLoHi rd hs ∧
    decode (0b0100010010#10 ++ rs.toBits ++ hd.toBits) = .addHiLo hd rs ∧
    decode (0b0100010011#10 ++ hs.toBits ++ hd.toBits) = .addHiHi hd hs ∧
    exec (.undefAddLoLo x) s = .fault (.undefinedInstruction (0b0100010000#10 ++ x) s.pc) ∧
    s.hi .r15 = BitVec.ofNat 32 (s.pc.toNat + 4) ∧
    (s.pc.toNat + 2 < 2 ^ 32 →
      (∃ t, exec (.addLoHi rd hs) s = .next t ∧
        WritesOnly s t (loPReg rd) (BitVec.ofNat 32 ((s.lo rd).toNat + (s.hi hs).toNat))) ∧
      (∀ p, hiPReg s.cpsr.mode hd = some p →
        (∃ t, exec (.addHiLo hd rs) s = .next t ∧
          WritesOnly s t p (BitVec.ofNat 32 ((s.hi hd).toNat + (s.lo rs).toNat))) ∧
        (∃ t, exec (.addHiHi hd hs) s = .next t ∧
          WritesOnly s t p (BitVec.ofNat 32 ((s.hi hd).toNat + (s.hi hs).toNat))))) ∧
    (∃ t, exec (.addHiLo .r15 rs) s = .next t ∧
      JumpsOnly s t (dropBit0 (BitVec.ofNat 32 (s.pc.toNat + 4 + (s.lo rs).toNat)))) ∧
    (∃ t, exec (.addHiHi .r15 hs) s = .next t ∧
      JumpsOnly s t (dropBit0 (BitVec.ofNat 32 (s.pc.toNat + 4 + (s.hi hs).toNat))))

/-- CMP computes the difference of the two registers (R15 reading as the address plus 4), sets all four flags from it
and writes no register; R15 as first operand does not branch; control goes to pc + 2. The form with two Lo registers
is undefined. The flag values are the family's (GK4; log entry 22); that the undefined word stops is the model's
choice D16 and D5 (log entry 15). A Hi register is the current mode's copy by GK3 (log entry 14). Cites R11, R173,
R176, R302. -/
def Obligations.HiCompareResults : Prop :=
  ∀ (s : State) (rd rs : LoReg) (hd hs : HiReg) (x : BitVec 6),
    decode (0b0100010101#10 ++ hs.toBits ++ rd.toBits) = .cmpLoHi rd hs ∧
    decode (0b0100010110#10 ++ rs.toBits ++ hd.toBits) = .cmpHiLo hd rs ∧
    decode (0b0100010111#10 ++ hs.toBits ++ hd.toBits) = .cmpHiHi hd hs ∧
    exec (.undefCmpLoLo x) s = .fault (.undefinedInstruction (0b0100010100#10 ++ x) s.pc) ∧
    s.hi .r15 = BitVec.ofNat 32 (s.pc.toNat + 4) ∧
    (s.pc.toNat + 2 < 2 ^ 32 →
      (∃ t r, exec (.cmpLoHi rd hs) s = .next t ∧ FallsThrough s t [] ∧
        IsDiff s.cpsr t.cpsr (s.lo rd) (s.hi hs) 0 r) ∧
      (∃ t r, exec (.cmpHiLo hd rs) s = .next t ∧ FallsThrough s t [] ∧
        IsDiff s.cpsr t.cpsr (s.hi hd) (s.lo rs) 0 r) ∧
      (∃ t r, exec (.cmpHiHi hd hs) s = .next t ∧ FallsThrough s t [] ∧
        IsDiff s.cpsr t.cpsr (s.hi hd) (s.hi hs) 0 r))

/-- MOV copies a register (R15 reading as the address plus 4) to a Lo register, to a Hi register below R15, or, with bit
0 dropped, to the pc; no flag and nothing else changes; control goes to pc + 2 unless R15 is written. The form with
two Lo registers is undefined. Dropping bit 0 and staying in THUMB state on a write of R15 is D10 and GK12 (log
entry 24); that the undefined word stops is the model's choice D5 (log entry 15). A Hi register is the current
mode's copy by GK3 (log entry 14). Cites R174, R176, R177, R302. -/
def Obligations.HiMoveResults : Prop :=
  ∀ (s : State) (rd rs : LoReg) (hd hs : HiReg) (x : BitVec 6),
    decode (0b0100011001#10 ++ hs.toBits ++ rd.toBits) = .movLoHi rd hs ∧
    decode (0b0100011010#10 ++ rs.toBits ++ hd.toBits) = .movHiLo hd rs ∧
    decode (0b0100011011#10 ++ hs.toBits ++ hd.toBits) = .movHiHi hd hs ∧
    exec (.undefMovLoLo x) s = .fault (.undefinedInstruction (0b0100011000#10 ++ x) s.pc) ∧
    s.hi .r15 = BitVec.ofNat 32 (s.pc.toNat + 4) ∧
    (s.pc.toNat + 2 < 2 ^ 32 →
      (∃ t, exec (.movLoHi rd hs) s = .next t ∧ WritesOnly s t (loPReg rd) (s.hi hs)) ∧
      (∀ p, hiPReg s.cpsr.mode hd = some p →
        (∃ t, exec (.movHiLo hd rs) s = .next t ∧ WritesOnly s t p (s.lo rs)) ∧
        (∃ t, exec (.movHiHi hd hs) s = .next t ∧ WritesOnly s t p (s.hi hs)))) ∧
    (∃ t, exec (.movHiLo .r15 rs) s = .next t ∧ JumpsOnly s t (dropBit0 (s.lo rs))) ∧
    (∃ t, exec (.movHiHi .r15 hs) s = .next t ∧ JumpsOnly s t (dropBit0 (s.hi hs)))

/-- BX of a Lo or Hi register holding v: v odd goes to v with bit 0 dropped in THUMB state; v a multiple of 4 goes to v
in ARM state (a next state in this model, log entry 12), and the step after it ends the run with the outcome
EnterARMState and v (log entries 13, 32); v even but not a multiple of 4 stops; nothing but the pc and T changes,
and on the way to ARM state the model's record of the outcome. BX PC at a word-aligned address goes to its address
plus 4 in ARM state and at another even address stops. Nonzero bits 2:0 of the word stop. The three stops are the
model's choices D26, D6 and D17 (GK19; log entry 16). A Hi register is the current mode's copy by GK3 (log entry
14). Cites R175, R300, R306, R34, R336. -/
def Obligations.BranchExchangeResults : Prop :=
  ∀ (s : State) (rs : LoReg) (hs : HiReg) (sbz : BitVec 3),
    decode (0b0100011100#10 ++ rs.toBits ++ sbz) = .bxLo rs sbz ∧
    decode (0b0100011101#10 ++ hs.toBits ++ sbz) = .bxHi hs sbz ∧
    (sbz ≠ 0 → exec (.bxLo rs sbz) s = .fault (.unpredictable .bxBitsNonzero s.pc) ∧
      exec (.bxHi hs sbz) s = .fault (.unpredictable .bxBitsNonzero s.pc)) ∧
    (∀ i v, (i = .bxLo rs 0 ∧ v = s.lo rs) ∨ (i = .bxHi hs 0 ∧ hs ≠ .r15 ∧ v = s.hi hs) →
      (v.toNat % 2 = 1 → ∃ t, exec i s = .next t ∧ t.pc = dropBit0 v ∧
        t.cpsr = { s.cpsr with t := true } ∧ Frame s t [] noBytes) ∧
      (v.toNat % 4 = 0 → ∃ t, exec i s = .next t ∧ t.pc = v ∧
        t.cpsr = { s.cpsr with t := false } ∧ Frame { s with lastExit := some (.enterArmState v) } t [] noBytes ∧
        step t = .refused (.armState v (some (.enterArmState v)))) ∧
      (v.toNat % 4 = 2 → exec i s = .fault (.unpredictable .bxArmTargetUnaligned s.pc))) ∧
    (s.pc.toNat % 4 = 0 → ∃ t, exec (.bxHi .r15 0) s = .next t ∧ t.pc = s.pc + 4 ∧
      t.cpsr = { s.cpsr with t := false } ∧
      Frame { s with lastExit := some (.enterArmState (s.pc + 4)) } t [] noBytes ∧
      step t = .refused (.armState (s.pc + 4) (some (.enterArmState (s.pc + 4))))) ∧
    (s.pc.toNat % 4 = 2 → exec (.bxHi .r15 0) s = .fault (.unpredictable .bxPcUnaligned s.pc))

/-- The address is pc + 4 with bits 1 and 0 dropped plus 4 * Word8, modulo 2^32, always a multiple of 4; when the
platform admits the read, Rd gets the word there in the state's byte order and nothing else changes; otherwise the
step is a data abort. The data abort is the model's choice D4 (log entry 17). The sums wrap modulo 2^32 by D21 (log
entry 28). Cites R191, R52, R55. -/
def Obligations.LoadPcResult : Prop :=
  ∀ (s : State) (rd : LoReg) (word8 : BitVec 8),
    let a := BitVec.ofNat 32 ((pcWordBase s.pc).toNat + 4 * word8.toNat)
    decode (0b01001#5 ++ rd.toBits ++ word8) = .ldrPc rd word8 ∧ a.toNat % 4 = 0 ∧
    (s.admits a .word .read = false → exec (.ldrPc rd word8) s = .fault (.dataAbort a .word .read s.pc)) ∧
    (s.admits a .word .read = true → s.pc.toNat + 2 < 2 ^ 32 →
      ∃ t, exec (.ldrPc rd word8) s = .next t ∧ WritesOnly s t (loPReg rd) (BitVec.ofNat 32 (s.value a .word)))

/-- The address is Rb + Ro modulo 2^32. An unaligned address, a touch of the program's code and an access the platform
refuses stop the step, in that order. Otherwise the bytes at the address hold the low bits of Rd in the state's byte
order, every other byte, every register and every flag is as before, and control goes to pc + 2. The premise is that
memory is in canonical form. The stops and their order are the model's choices D3, D4 and D12 (log entries 17, 19,
30). The sums wrap modulo 2^32 by D21 (log entry 28). Cites R193, R194, R198, R52, R53, R55, R56, R66. -/
def Obligations.StoreRegisterResults : Prop :=
  ∀ (s : State) (rd rb ro : LoReg) (i : Instr) (w : Width),
    let a := s.regAddr rb ro
    decode (0b0101000#7 ++ ro.toBits ++ rb.toBits ++ rd.toBits) = .strReg rd rb ro ∧
    decode (0b0101010#7 ++ ro.toBits ++ rb.toBits ++ rd.toBits) = .strbReg rd rb ro ∧
    decode (0b0101001#7 ++ ro.toBits ++ rb.toBits ++ rd.toBits) = .strhReg rd rb ro ∧
    a = BitVec.ofNat 32 ((s.lo rb).toNat + (s.lo ro).toNat) ∧
    ((i, w) ∈ [(Instr.strReg rd rb ro, Width.word), (.strbReg rd rb ro, .byte), (.strhReg rd rb ro, .half)] →
      StoreStops s a w (exec i s) ∧
      (s.mem.wf = true → s.Writable a w → s.pc.toNat + 2 < 2 ^ 32 →
        ∃ t, exec i s = .next t ∧ StoresOnly s t a w (s.lo rd)))

/-- The address is Rb + Ro modulo 2^32. An unaligned address and a read the platform refuses stop the step, in that
order. Otherwise Rd gets the value in the state's byte order, zero-extended by LDRB and LDRH and sign-extended by
LDSB and LDSH; nothing else changes and control goes to pc + 2. Rd may be Rb or Ro. The stops and their order are
the model's choices D3 and D4 (log entries 17, 30); the zero extension of LDRB is GK9 (log entry 26). The sums wrap
modulo 2^32 by D21 (log entry 28). Cites R195, R196, R199, R200, R201, R52, R53, R55, R56. -/
def Obligations.LoadRegisterResults : Prop :=
  ∀ (s : State) (rd rb ro : LoReg) (i : Instr) (w : Width) (v : Word),
    let a := BitVec.ofNat 32 ((s.lo rb).toNat + (s.lo ro).toNat)
    decode (0b0101100#7 ++ ro.toBits ++ rb.toBits ++ rd.toBits) = .ldrReg rd rb ro ∧
    decode (0b0101110#7 ++ ro.toBits ++ rb.toBits ++ rd.toBits) = .ldrbReg rd rb ro ∧
    decode (0b0101101#7 ++ ro.toBits ++ rb.toBits ++ rd.toBits) = .ldrhReg rd rb ro ∧
    decode (0b0101011#7 ++ ro.toBits ++ rb.toBits ++ rd.toBits) = .ldsbReg rd rb ro ∧
    decode (0b0101111#7 ++ ro.toBits ++ rb.toBits ++ rd.toBits) = .ldshReg rd rb ro ∧
    ((i, w, v) ∈ [(Instr.ldrReg rd rb ro, Width.word, BitVec.ofNat 32 (s.value a .word)),
        (.ldrbReg rd rb ro, .byte, BitVec.ofNat 32 (s.value a .byte)),
        (.ldrhReg rd rb ro, .half, BitVec.ofNat 32 (s.value a .half)),
        (.ldsbReg rd rb ro, .byte, BitVec.ofInt 32 (BitVec.ofNat 8 (s.value a .byte)).toInt),
        (.ldshReg rd rb ro, .half, BitVec.ofInt 32 (BitVec.ofNat 16 (s.value a .half)).toInt)] →
      LoadStops s a w (exec i s) ∧
      (s.Readable a w → s.pc.toNat + 2 < 2 ^ 32 → ∃ t, exec i s = .next t ∧ WritesOnly s t (loPReg rd) v))

/-- The address is the base register plus the offset counted in words, bytes or halfwords, or SP plus 4 * Word8, modulo
2^32. An unaligned address, a touch of the program's code and an access the platform refuses stop the step, in that
order. Otherwise the bytes at the address hold the low bits of Rd, every other byte, every register and every flag
is as before, and control goes to pc + 2. The premise is that memory is in canonical form. The stops and their order
are the model's choices D3, D4 and D12 (log entries 17, 19, 30). The sums wrap modulo 2^32 by D21 (log entry 28),
and SP is the current mode's copy by GK3 (log entry 14). Cites R211, R213, R216, R219, R52, R53, R55, R56, R66. -/
def Obligations.StoreImmediateResults : Prop :=
  ∀ (s : State) (rd rb : LoReg) (off5 : BitVec 5) (word8 : BitVec 8) (i : Instr) (w : Width) (a : Word),
    decode (0b01100#5 ++ off5 ++ rb.toBits ++ rd.toBits) = .strImm rd rb off5 ∧
    decode (0b01110#5 ++ off5 ++ rb.toBits ++ rd.toBits) = .strbImm rd rb off5 ∧
    decode (0b10000#5 ++ off5 ++ rb.toBits ++ rd.toBits) = .strhImm rd rb off5 ∧
    decode (0b10010#5 ++ rd.toBits ++ word8) = .strSp rd word8 ∧
    s.immAddr rb (wordOffset off5) = BitVec.ofNat 32 ((s.lo rb).toNat + 4 * off5.toNat) ∧
    s.immAddr rb (byteOffset off5) = BitVec.ofNat 32 ((s.lo rb).toNat + off5.toNat) ∧
    s.immAddr rb (halfOffset off5) = BitVec.ofNat 32 ((s.lo rb).toNat + 2 * off5.toNat) ∧
    s.spAddr word8 = BitVec.ofNat 32 (s.sp.toNat + 4 * word8.toNat) ∧
    ((i, w, a) ∈ [(Instr.strImm rd rb off5, Width.word, s.immAddr rb (wordOffset off5)),
        (.strbImm rd rb off5, .byte, s.immAddr rb (byteOffset off5)),
        (.strhImm rd rb off5, .half, s.immAddr rb (halfOffset off5)),
        (.strSp rd word8, .word, s.spAddr word8)] →
      StoreStops s a w (exec i s) ∧
      (s.mem.wf = true → s.Writable a w → s.pc.toNat + 2 < 2 ^ 32 →
        ∃ t, exec i s = .next t ∧ StoresOnly s t a w (s.lo rd)))

/-- The address is the base register plus the offset counted in words, bytes or halfwords, or SP plus 4 * Word8, modulo
2^32. An unaligned address and a read the platform refuses stop the step, in that order. Otherwise Rd gets the zero-
extended value in the state's byte order; nothing else changes and control goes to pc + 2. The stops and their order
are the model's choices D3 and D4 (log entries 17, 30); the zero extension of LDRB is GK9 (log entry 26). The sums
wrap modulo 2^32 by D21 (log entry 28), and SP is the current mode's copy by GK3 (log entry 14). Cites R212, R214,
R217, R220, R52, R53, R55, R56. -/
def Obligations.LoadImmediateResults : Prop :=
  ∀ (s : State) (rd rb : LoReg) (off5 : BitVec 5) (word8 : BitVec 8) (i : Instr) (w : Width) (a : Word),
    decode (0b01101#5 ++ off5 ++ rb.toBits ++ rd.toBits) = .ldrImm rd rb off5 ∧
    decode (0b01111#5 ++ off5 ++ rb.toBits ++ rd.toBits) = .ldrbImm rd rb off5 ∧
    decode (0b10001#5 ++ off5 ++ rb.toBits ++ rd.toBits) = .ldrhImm rd rb off5 ∧
    decode (0b10011#5 ++ rd.toBits ++ word8) = .ldrSp rd word8 ∧
    ((i, w, a) ∈ [(Instr.ldrImm rd rb off5, Width.word, BitVec.ofNat 32 ((s.lo rb).toNat + 4 * off5.toNat)),
        (.ldrbImm rd rb off5, .byte, BitVec.ofNat 32 ((s.lo rb).toNat + off5.toNat)),
        (.ldrhImm rd rb off5, .half, BitVec.ofNat 32 ((s.lo rb).toNat + 2 * off5.toNat)),
        (.ldrSp rd word8, .word, BitVec.ofNat 32 (s.sp.toNat + 4 * word8.toNat))] →
      LoadStops s a w (exec i s) ∧
      (s.Readable a w → s.pc.toNat + 2 < 2 ^ 32 →
        ∃ t, exec i s = .next t ∧ WritesOnly s t (loPReg rd) (BitVec.ofNat 32 (s.value a w))))

/-- A read stops unaligned, then not admitted, else gives the value; a write stops unaligned, then in the program's
code, then not admitted, else stores: in a memory in canonical form the bytes at the address then hold the low bits
of the value and every other byte and all else is as before. So alignment comes first, a write into the code stops
even where it is admitted, and a read from the code is an ordinary read. A fetch that is not admitted stops with
PrefetchAbort and that pc, and so does the step in THUMB state. The order is R56's; the stops are the model's
choices D3, D4 and D12 (log entries 17, 19, 30), regions and ranges as data log entries 7 and 8. Cites R53, R54,
R55, R56, R66, R312. -/
def Obligations.AccessChecks : Prop :=
  ∀ (s : State) (a : Word) (w : Width) (v : Word),
    (a.toNat % w.bytes ≠ 0 → s.memRead a w = .error (.alignmentFault a w s.pc) ∧
      s.memWrite a w v = .error (.alignmentFault a w s.pc)) ∧
    (a.toNat % w.bytes = 0 →
      (s.admits a w .read = false → s.memRead a w = .error (.dataAbort a w .read s.pc)) ∧
      (s.admits a w .read = true → ∃ r, s.memRead a w = .ok r ∧ r.toNat = s.value a w) ∧
      (s.touchesCode a w = true → s.memWrite a w v = .error (.unpredictable .storeToCode s.pc)) ∧
      (s.touchesCode a w = false → s.admits a w .write = false →
        s.memWrite a w v = .error (.dataAbort a w .write s.pc)) ∧
      (s.touchesCode a w = false → s.admits a w .write = true → ∃ t, s.memWrite a w v = .ok t ∧
        t.cpsr = s.cpsr ∧ t.pc = s.pc ∧ (s.mem.wf = true →
          t.value a w = v.toNat % 2 ^ (8 * w.bytes) ∧ Frame s t [] (bytesAt a w.bytes)))) ∧
    (s.touchesCode a w = true ↔ ∃ r ∈ s.codeRange, ∃ x, bytesAt a w.bytes x ∧ r.first ≤ x ∧ x ≤ r.last) ∧
    (s.pc.toNat % 2 = 0 → s.admits s.pc .half .fetch = false → s.fetch = .error (.prefetchAbort s.pc) ∧
      (s.cpsr.t = true → step s = .fault (.prefetchAbort s.pc)))

/-- After an aligned store the byte i above the address is byte i of the value in little order and byte n - 1 - i in big
order; a load's value is the sum the rule gives; a fetch reads a halfword in the same order; no instruction changes
the order, and it is little after reset. The premise is that memory is in canonical form. The order after reset is
the launch parameter's default, D2 (log entries 1 and 9). Cites R52, R331. -/
def Obligations.ByteOrderOfAccesses : Prop :=
  (∀ (s : State) (a : Word) (w : Width) (v : Word) (k : Nat), s.mem.wf = true → a.toNat % w.bytes = 0 →
      k < w.bytes → ((s.poke a w v).mem.read (a.toNat + k)).toNat =
        v.toNat / 256 ^ (match s.endian with | .little => k | .big => w.bytes - 1 - k) % 256) ∧
    (∀ (s : State) (a : Word) (w : Width) (r : Word), s.memRead a w = .ok r → r.toNat = memValue s.endian s.mem a w) ∧
    (∀ (s : State) (r : Half), s.fetch = .ok r → r.toNat = memValue s.endian s.mem s.pc .half) ∧
    (∀ (i : Instr) (s t : State), exec i s = .next t → t.endian = s.endian) ∧
    State.reset.endian = .little

/-- After a completed write of n bytes, a completed read of the same bytes gives the low bits of the value written, a
byte outside them reads as before, and the write changes nothing but memory. The premise is that memory is in
canonical form. The canonical form is the model's own (log entry 6). Cites R59, R63. -/
def Obligations.ReadReturnsLastWrite : Prop :=
  ∀ (s t : State) (a : Word) (w : Width) (v r : Word), s.mem.wf = true → s.memWrite a w v = .ok t →
    t = { s with mem := t.mem } ∧ (∀ x, ¬ bytesAt a w.bytes x → t.mem.read x = s.mem.read x) ∧
    (t.memRead a w = .ok r → r.toNat = v.toNat % 2 ^ (8 * w.bytes))

/-- A byte write inside the address space keeps the canonical form and changes that byte only, and two memories in
canonical form that give the same byte at every address are the same data. The canonical form is the model's own
(log entry 6). Cites R50, R51, R59. -/
def Obligations.MemoryCanonical : Prop :=
  ∀ m k : Memory, m.wf = true →
    (∀ (a : Nat) (b : Byte), a < 2 ^ 32 → (m.write a b).wf = true ∧
      ∀ x, (m.write a b).read x = if x = a then b else m.read x) ∧
    (k.wf = true → (∀ x, m.read x = k.read x) → m = k)

/-- Rd gets the PC with bits 1 and 0 dropped, or SP, plus 4 * Word8; SP of the current mode gets SP plus or minus 4 *
SWord7; all modulo 2^32. No flag and nothing else changes and control goes to pc + 2. That the sums wrap modulo 2^32
is D21 (log entry 28); that SP is the current mode's copy and the other copies stay is GK3 (log entry 14). Cites
R230, R231, R233, R234, R26, R28, R24. -/
def Obligations.AddressResults : Prop :=
  ∀ (s : State) (rd : LoReg) (word8 : BitVec 8) (sword7 : BitVec 7),
    decode (0b10100#5 ++ rd.toBits ++ word8) = .addPc rd word8 ∧
    decode (0b10101#5 ++ rd.toBits ++ word8) = .addSpRd rd word8 ∧
    decode (0b101100000#9 ++ sword7) = .addSpPos sword7 ∧
    decode (0b101100001#9 ++ sword7) = .addSpNeg sword7 ∧
    (s.pc.toNat + 2 < 2 ^ 32 →
      (∃ t, exec (.addPc rd word8) s = .next t ∧
        WritesOnly s t (loPReg rd) (BitVec.ofNat 32 ((pcWordBase s.pc).toNat + 4 * word8.toNat))) ∧
      (∃ t, exec (.addSpRd rd word8) s = .next t ∧
        WritesOnly s t (loPReg rd) (BitVec.ofNat 32 (s.sp.toNat + 4 * word8.toNat))) ∧
      (∃ t, exec (.addSpPos sword7) s = .next t ∧
        WritesOnly s t (spPReg s.cpsr.mode) (BitVec.ofNat 32 (s.sp.toNat + 4 * sword7.toNat))) ∧
      (∃ t, exec (.addSpNeg sword7) s = .next t ∧
        WritesOnly s t (spPReg s.cpsr.mode) (BitVec.ofInt 32 ((s.sp.toNat : Int) - 4 * sword7.toNat))))

/-- The registers transferred for a list are those whose bit is set, each once, in ascending number. The mapping is the
model's from GK10 (log entry 23). Cites R109, R240. -/
def Obligations.ListOrder : Prop :=
  ∀ rlist : BitVec 8,
    (∀ r, r ∈ listRegs rlist ↔ rlist.getLsbD r.toBits.toNat = true) ∧
    (listRegs rlist).Pairwise (fun r q => r.toBits.toNat < q.toBits.toNat)

/-- With n words pushed, SP goes down by 4 * n to start; the k-th register of the list in ascending number is stored at
start + 4 * k and LR, when pushed, above them all; every other byte, register and flag is as before and control goes
to pc + 2. The first access that does not complete decides how the instruction stops; an empty list without LR
stops. The premise for completion is that memory is in canonical form and every access completes. The stop of an
empty list is the model's choice D13 (log entry 16), the order of the list GK10 (log entry 23), the stops of the
accesses D3, D4 and D12 (log entries 17, 19, 30). The sums wrap modulo 2^32 by D21 (log entry 28), and SP is the
current mode's copy by GK3 (log entry 14). Cites R240, R241, R242, R248, R53, R55, R56, R66. -/
def Obligations.PushResults : Prop :=
  ∀ (s : State) (rlist : BitVec 8),
    let n := (listRegs rlist).length
    decode (0b10110100#8 ++ rlist) = .push rlist ∧ decode (0b10110101#8 ++ rlist) = .pushLr rlist ∧
    (∀ k, s.pushStart k = BitVec.ofInt 32 ((s.sp.toNat : Int) - 4 * k)) ∧
    (rlist = 0 → exec (.push rlist) s = .fault (.unpredictable .emptyRegisterList s.pc)) ∧
    (rlist ≠ 0 → StoreManyStops s (s.pushStart n) n (exec (.push rlist) s)) ∧
    StoreManyStops s (s.pushStart (n + 1)) (n + 1) (exec (.pushLr rlist) s) ∧
    (rlist ≠ 0 → s.mem.wf = true → (∀ k, k < n → s.Writable (slot (s.pushStart n) k) .word) →
      s.pc.toNat + 2 < 2 ^ 32 → ∃ t, exec (.push rlist) s = .next t ∧ t.sp = s.pushStart n ∧ t.cpsr = s.cpsr ∧
        t.pc = s.pc + 2 ∧ Frame s t [spPReg s.cpsr.mode] (wordsAt (s.pushStart n) n) ∧
        ∀ k r, (listRegs rlist)[k]? = some r → t.value (slot (s.pushStart n) k) .word = (s.lo r).toNat) ∧
    (s.mem.wf = true → (∀ k, k < n + 1 → s.Writable (slot (s.pushStart (n + 1)) k) .word) →
      s.pc.toNat + 2 < 2 ^ 32 → ∃ t, exec (.pushLr rlist) s = .next t ∧ t.sp = s.pushStart (n + 1) ∧
        t.cpsr = s.cpsr ∧ t.pc = s.pc + 2 ∧
        Frame s t [spPReg s.cpsr.mode] (wordsAt (s.pushStart (n + 1)) (n + 1)) ∧
        (∀ k r, (listRegs rlist)[k]? = some r → t.value (slot (s.pushStart (n + 1)) k) .word = (s.lo r).toNat) ∧
        t.value (slot (s.pushStart (n + 1)) n) .word = s.lr.toNat)

/-- The k-th register of the list in ascending number gets the word at SP + 4 * k, SP goes up by 4 times the number of
registers, no flag, no byte of memory and no other register changes, and control goes to pc + 2. The first access
that does not complete decides how the instruction stops; an empty list stops. The stop of an empty list is the
model's choice D13 (log entry 16), the order of the list GK10 (log entry 23), the stops of the accesses D3 and D4
(log entries 17, 30). The sums wrap modulo 2^32 by D21 (log entry 28), and SP is the current mode's copy by GK3 (log
entry 14). Cites R240, R243, R248, R53, R55, R56. -/
def Obligations.PopResults : Prop :=
  ∀ (s : State) (rlist : BitVec 8),
    let n := (listRegs rlist).length
    decode (0b10111100#8 ++ rlist) = .pop rlist ∧
    (rlist = 0 → exec (.pop rlist) s = .fault (.unpredictable .emptyRegisterList s.pc)) ∧
    (rlist ≠ 0 → LoadManyStops s s.sp n (exec (.pop rlist) s)) ∧
    (rlist ≠ 0 → (∀ k, k < n → s.Readable (slot s.sp k) .word) → s.pc.toNat + 2 < 2 ^ 32 →
      ∃ t, exec (.pop rlist) s = .next t ∧ t.cpsr = s.cpsr ∧ t.sp = slot s.sp n ∧
        FallsThrough s t (spPReg s.cpsr.mode :: (listRegs rlist).map loPReg) ∧
        ∀ k r, (listRegs rlist)[k]? = some r → (t.lo r).toNat = s.value (slot s.sp k) .word)

/-- The k-th register of the list gets the word at SP + 4 * k, the pc gets the word above them with bit 0 dropped, SP
goes up by 4 times the number of registers plus 4, T and the flags, memory and every other register stay. The list
may be empty. The first access that does not complete decides how the instruction stops. Dropping bit 0 and keeping
T is D10 and GK12 (log entry 24), the order of the list GK10 (log entry 23), the stops of the accesses the model's
choices D3 and D4 (log entries 17, 30). The sums wrap modulo 2^32 by D21 (log entry 28), and SP is the current
mode's copy by GK3 (log entry 14). Cites R240, R244, R177, R53, R55, R56. -/
def Obligations.PopPcResults : Prop :=
  ∀ (s : State) (rlist : BitVec 8),
    let n := (listRegs rlist).length
    decode (0b10111101#8 ++ rlist) = .popPc rlist ∧
    LoadManyStops s s.sp (n + 1) (exec (.popPc rlist) s) ∧
    ((∀ k, k < n + 1 → s.Readable (slot s.sp k) .word) →
      ∃ t, exec (.popPc rlist) s = .next t ∧ t.cpsr = s.cpsr ∧ t.sp = slot s.sp (n + 1) ∧
        t.pc = dropBit0 (BitVec.ofNat 32 (s.value (slot s.sp n) .word)) ∧
        Frame s t (spPReg s.cpsr.mode :: (listRegs rlist).map loPReg) noBytes ∧
        ∀ k r, (listRegs rlist)[k]? = some r → (t.lo r).toNat = s.value (slot s.sp k) .word)

/-- The k-th register of the list in ascending number, with its value before the instruction, is stored at Rb + 4 * k,
and Rb goes up by 4 times the number of registers; every other byte, register and flag is as before and control goes
to pc + 2. An empty list, and a base register in the list below which another is listed, stop; then the first access
that does not complete does. The premise for completion is that memory is in canonical form and every access
completes. The stops of an empty list and of a base that is listed but not lowest are the model's choices D13 and
D14 (log entry 16), the order of the list and the value stored for the base GK10 and GK11 (log entry 23), the stops
of the accesses D3, D4 and D12 (log entries 17, 19, 30). The sums wrap modulo 2^32 by D21 (log entry 28). Cites
R240, R246, R248, R53, R55, R56, R66. -/
def Obligations.StoreMultipleResults : Prop :=
  ∀ (s : State) (rb : LoReg) (rlist : BitVec 8),
    let n := (listRegs rlist).length
    let a := s.lo rb
    let baseNotLowestInList := rb ∈ listRegs rlist ∧ ∃ r ∈ listRegs rlist, r.toBits.toNat < rb.toBits.toNat
    decode (0b11000#5 ++ rb.toBits ++ rlist) = .stmia rb rlist ∧
    (rlist = 0 → exec (.stmia rb rlist) s = .fault (.unpredictable .emptyRegisterList s.pc)) ∧
    (baseNotLowestInList → exec (.stmia rb rlist) s = .fault (.unpredictable .stmBaseNotLowest s.pc)) ∧
    (rlist ≠ 0 → ¬ baseNotLowestInList → StoreManyStops s a n (exec (.stmia rb rlist) s)) ∧
    (rlist ≠ 0 → ¬ baseNotLowestInList → s.mem.wf = true → (∀ k, k < n → s.Writable (slot a k) .word) →
      s.pc.toNat + 2 < 2 ^ 32 → ∃ t, exec (.stmia rb rlist) s = .next t ∧ t.cpsr = s.cpsr ∧ t.pc = s.pc + 2 ∧
        t.lo rb = slot a n ∧ Frame s t [loPReg rb] (wordsAt a n) ∧
        ∀ k r, (listRegs rlist)[k]? = some r → t.value (slot a k) .word = (s.lo r).toNat)

/-- The k-th register of the list in ascending number gets the word at Rb + 4 * k, all addresses from the old Rb; Rb
goes up by 4 times the number of registers unless it is in the list, when it keeps the loaded value; no flag, no
byte of memory and no other register changes, and control goes to pc + 2. An empty list stops; then the first access
that does not complete does. The stop of an empty list is the model's choice D13 (log entry 16), the order of the
list and the loaded base kept are GK10, and D14 and GK11 (log entry 23), the stops of the accesses D3 and D4 (log
entries 17, 30). The sums wrap modulo 2^32 by D21 (log entry 28). Cites R240, R247, R248, R53, R55, R56. -/
def Obligations.LoadMultipleResults : Prop :=
  ∀ (s : State) (rb : LoReg) (rlist : BitVec 8),
    let n := (listRegs rlist).length
    let a := s.lo rb
    decode (0b11001#5 ++ rb.toBits ++ rlist) = .ldmia rb rlist ∧
    (rlist = 0 → exec (.ldmia rb rlist) s = .fault (.unpredictable .emptyRegisterList s.pc)) ∧
    (rlist ≠ 0 → LoadManyStops s a n (exec (.ldmia rb rlist) s)) ∧
    (rlist ≠ 0 → (∀ k, k < n → s.Readable (slot a k) .word) → s.pc.toNat + 2 < 2 ^ 32 →
      ∃ t, exec (.ldmia rb rlist) s = .next t ∧ t.cpsr = s.cpsr ∧
        FallsThrough s t (loPReg rb :: (listRegs rlist).map loPReg) ∧
        (∀ k r, (listRegs rlist)[k]? = some r → (t.lo r).toNat = s.value (slot a k) .word) ∧
        (rb ∉ listRegs rlist → t.lo rb = slot a n))

/-- If a PUSH of a nonempty list completes and its words can be read back, then the POP of the same list right after it
completes, and every register, SP included, is as before the PUSH, with the flags unchanged. The premise is that
memory is in canonical form. The order of the list is GK10 (log entry 23). Cites R241, R243, R249. -/
def Obligations.PushThenPopRestores : Prop :=
  ∀ (s t : State) (rlist : BitVec 8), s.mem.wf = true → exec (.push rlist) s = .next t →
    (∀ k, k < (listRegs rlist).length → s.Readable (slot (s.pushStart (listRegs rlist).length) k) .word) →
    s.pc.toNat + 4 < 2 ^ 32 →
    ∃ u, exec (.pop rlist) t = .next u ∧ u.regs = s.regs ∧ u.cpsr = s.cpsr ∧ u.pc = s.pc + 4

/-- BEQ, BNE, BCS, BCC, BMI, BPL, BVS: the word with that condition code and offset decodes to the branch; when the
condition holds on the flags, control goes to pc + 4 plus twice the signed offset, modulo 2^32; when it does not, to
pc + 2; no register, flag or byte of memory changes. That the target wraps modulo 2^32 is D15 (log entry 28). Cites
R260, R261, R262, R263, R264, R265, R266, R267. -/
def Obligations.FlagBranchResults : Prop :=
  ∀ (s : State) (off : BitVec 8) (cc : BitVec 4) (i : Instr) (taken : Bool),
    let p := s.cpsr
    (cc, i, taken) ∈ [(0b0000#4, Instr.beq off, p.z), (0b0001#4, .bne off, !p.z), (0b0010#4, .bcs off, p.c), (0b0011#4, .bcc off, !p.c), (0b0100#4, .bmi off, p.n), (0b0101#4, .bpl off, !p.n), (0b0110#4, .bvs off, p.v)] →
      decode (0b1101#4 ++ cc ++ off) = i ∧
      (taken = true → ∃ t, exec i s = .next t ∧ JumpsOnly s t (BitVec.ofInt 32 (s.pc.toNat + 4 + 2 * off.toInt))) ∧
      (taken = false → s.pc.toNat + 2 < 2 ^ 32 → ∃ t, exec i s = .next t ∧ JumpsOnly s t (s.pc + 2))

/-- BVC, BHI, BLS, BGE, BLT, BGT, BLE: the word with that condition code and offset decodes to the branch; when the
condition holds on the flags, control goes to pc + 4 plus twice the signed offset, modulo 2^32; when it does not, to
pc + 2; no register, flag or byte of memory changes. That the target wraps modulo 2^32 is D15 (log entry 28). Cites
R260, R268, R269, R270, R271, R272, R273, R274. -/
def Obligations.CompareBranchResults : Prop :=
  ∀ (s : State) (off : BitVec 8) (cc : BitVec 4) (i : Instr) (taken : Bool),
    let p := s.cpsr
    (cc, i, taken) ∈ [(0b0111#4, Instr.bvc off, !p.v), (0b1000#4, .bhi off, p.c && !p.z), (0b1001#4, .bls off, !p.c || p.z), (0b1010#4, .bge off, p.n == p.v), (0b1011#4, .blt off, p.n != p.v), (0b1100#4, .bgt off, !p.z && p.n == p.v), (0b1101#4, .ble off, p.z || p.n != p.v)] →
      decode (0b1101#4 ++ cc ++ off) = i ∧
      (taken = true → ∃ t, exec i s = .next t ∧ JumpsOnly s t (BitVec.ofInt 32 (s.pc.toNat + 4 + 2 * off.toInt))) ∧
      (taken = false → s.pc.toNat + 2 < 2 ^ 32 → ∃ t, exec i s = .next t ∧ JumpsOnly s t (s.pc + 2))

/-- On the flags left by CMP Rd, Rs: EQ holds when the operands are equal, CS when Rd is unsigned higher or same, HI
when it is unsigned higher, GE and GT when it is signed greater or equal and greater, and NE, CC, LS, LT and LE are
their opposites. The flags of CMP are GK4 (log entry 22). Cites R260, R11. -/
def Obligations.BranchAfterCompare : Prop :=
  ∀ (s t : State) (rd rs : LoReg), exec (.cmpReg rd rs) s = .next t →
    let a := s.lo rd
    let b := s.lo rs
    (Cond.eq.holds t.cpsr = true ↔ a = b) ∧ (Cond.ne.holds t.cpsr = true ↔ a ≠ b) ∧
    (Cond.cs.holds t.cpsr = true ↔ b.toNat ≤ a.toNat) ∧ (Cond.cc.holds t.cpsr = true ↔ a.toNat < b.toNat) ∧
    (Cond.hi.holds t.cpsr = true ↔ b.toNat < a.toNat) ∧ (Cond.ls.holds t.cpsr = true ↔ a.toNat ≤ b.toNat) ∧
    (Cond.ge.holds t.cpsr = true ↔ b.toInt ≤ a.toInt) ∧ (Cond.lt.holds t.cpsr = true ↔ a.toInt < b.toInt) ∧
    (Cond.gt.holds t.cpsr = true ↔ b.toInt < a.toInt) ∧ (Cond.le.holds t.cpsr = true ↔ a.toInt ≤ b.toInt)

/-- The word 11100 with Offset11 decodes to B; control goes to pc + 4 plus twice the signed offset, modulo 2^32; no
register, flag or byte of memory changes. That the target wraps modulo 2^32 is D15 (log entry 28). Cites R279. -/
def Obligations.BranchResult : Prop :=
  ∀ (s : State) (off11 : BitVec 11),
    decode (0b11100#5 ++ off11) = .b off11 ∧
    ∃ t, exec (.b off11) s = .next t ∧ JumpsOnly s t (BitVec.ofInt 32 (s.pc.toNat + 4 + 2 * off11.toInt))

/-- The first puts pc + 4 plus 4096 times the signed offset in LR of the current mode and goes on to pc + 2; the second
goes to LR plus twice the unsigned offset with bit 0 dropped and puts the address of the next instruction with bit 0
set in LR; all modulo 2^32, and no flag and nothing else changes. The sign extension of the first half is GK28 (log
entry 26), dropping bit 0 in the second D10 (log entry 24). The sums wrap modulo 2^32 by D15 and D21 (log entry 28),
and LR is the current mode's copy by GK3 (log entry 14). Cites R281, R282, R177. -/
def Obligations.LinkHalvesResults : Prop :=
  ∀ (s : State) (off11 : BitVec 11),
    decode (0b11110#5 ++ off11) = .blHigh off11 ∧ decode (0b11111#5 ++ off11) = .blLow off11 ∧
    (s.pc.toNat + 2 < 2 ^ 32 → ∃ t, exec (.blHigh off11) s = .next t ∧
      WritesOnly s t (lrPReg s.cpsr.mode) (BitVec.ofInt 32 (s.pc.toNat + 4 + 4096 * off11.toInt))) ∧
    (∃ t, exec (.blLow off11) s = .next t ∧
      t.pc = dropBit0 (BitVec.ofNat 32 (s.lr.toNat + 2 * off11.toNat)) ∧
      t.lr = ((s.pc + 2) ||| 1) ∧ t.cpsr = s.cpsr ∧ Frame s t [lrPReg s.cpsr.mode] noBytes)

/-- At an even address A, for every even byte distance D from -4194304 to 4194302, the two instructions carrying
D[22:12] and D[11:1], executed one after the other, leave A + 4 plus the sign-extended high half in LR in between
and then enter A + 4 + D modulo 2^32 with A + 4 and bit 0 set in LR; nothing else changes. The sign extension is
GK28 (log entry 26). Dropping bit 0 in the second half is D10 (log entry 24). The sums wrap modulo 2^32 by D15 and
D21 (log entry 28), and LR is the current mode's copy by GK3 (log entry 14). Cites R283, R108, R281, R282. -/
def Obligations.LinkPairCalls : Prop :=
  ∀ (s : State) (d : Int), s.pc.toNat % 2 = 0 → s.pc.toNat + 2 < 2 ^ 32 → d % 2 = 0 → -4194304 ≤ d → d ≤ 4194302 →
    ∃ t u, exec (.blHigh (BitVec.ofInt 11 (d / 2 ^ 12))) s = .next t ∧ t.pc = s.pc + 2 ∧
      t.lr = BitVec.ofInt 32 (s.pc.toNat + 4 + d / 2 ^ 12 * 2 ^ 12) ∧
      exec (.blLow (BitVec.ofInt 11 (d / 2))) t = .next u ∧ u.pc = BitVec.ofInt 32 (s.pc.toNat + 4 + d) ∧
      u.lr = ((s.pc + 4) ||| 1) ∧ u.cpsr = s.cpsr ∧ Frame s u [lrPReg s.cpsr.mode] noBytes

/-- For every Value8: R14_svc gets the address of the next instruction, SPSR_svc the CPSR before, the mode becomes
Supervisor, T 0 and I 1, the pc the vector 0x8; N, Z, C, V, F, every other register, every other SPSR, memory and
the platform stay; the outcome SoftwareInterrupt with Value8 is recorded and the step after it ends the run with it
(log entries 13, 32). Taking the entry as a next state, where the rules end the run, is log entry 11; the banked
copies, the mode and I are GK13 (log entry 14). Cites R301, R300, R35, R277. -/
def Obligations.SwiEntry : Prop :=
  ∀ (s : State) (value8 : BitVec 8),
    decode (0b11011111#8 ++ value8) = .swi value8 ∧
    ∃ t, exec (.swi value8) s = .next t ∧ t.pc = 0x00000008#32 ∧ t.regs.get .r14Svc = s.pc + 2 ∧
      t.spsr = { s.spsr with svc := s.cpsr } ∧ t.cpsr = { s.cpsr with mode := .svc, t := false, i := true } ∧
      Frame { s with spsr := t.spsr, lastExit := some (.softwareInterrupt value8) } t [.r14Svc] noBytes ∧
      step t = .refused (.armState 0x00000008#32 (some (.softwareInterrupt value8)))

/-- From any Supervisor-mode state whose R14_svc and SPSR_svc are those the SWI saved, the return the spec describes
(MOVS PC, R14) restores the CPSR of before the SWI, mode, T and I included, and goes to the instruction after it,
changing nothing else. In User and System mode, which have no SPSR, and in no other there is no return. The return
is an operation of the model used by no THUMB instruction (log entry 27). What SWI saves, and where, is GK13 (log
entry 14), its next state log entry 11. Cites R24, R309, R301. -/
def Obligations.ReturnUndoesSwi : Prop :=
  (∀ (s t u : State) (value8 : BitVec 8), exec (.swi value8) s = .next t → u.cpsr.mode = .svc →
      u.regs.get .r14Svc = t.regs.get .r14Svc → u.spsr.svc = t.spsr.svc →
      ∃ r, u.returnFromException 0 = some r ∧ r.cpsr = s.cpsr ∧ r.pc = s.pc + 2 ∧
        r = { u with cpsr := s.cpsr, pc := s.pc + 2 }) ∧
    (∀ (s : State) (offset : Word),
      s.returnFromException offset = none ↔ s.cpsr.mode = .usr ∨ s.cpsr.mode = .sys)

/-- In every state and mode: after a write of a Lo register, or of a Hi register other than R15, that register reads the
value written and every other register reads as before; SP is R13 and LR is R14, read and written; R15 alone is no
register of the file. Cites R23. -/
def Obligations.RegistersReadBack : Prop :=
  ∀ (s : State) (v : Word),
    (∀ r, (s.setLo r v).lo r = v ∧ (∀ q, q ≠ r → (s.setLo r v).lo q = s.lo q) ∧
      ∀ h, (s.setLo r v).hi h = s.hi h) ∧
    (∀ h p, hiPReg s.cpsr.mode h = some p → (s.setReg p v).hi h = v ∧
      (∀ q, (s.setReg p v).lo q = s.lo q) ∧ ∀ k, k ≠ h → (s.setReg p v).hi k = s.hi k) ∧
    (s.hi .r13 = s.sp ∧ s.hi .r14 = s.lr ∧ (s.setSp v).hi .r13 = v ∧ (s.setLr v).hi .r14 = v) ∧
    ∀ h, hiPReg s.cpsr.mode h = none ↔ h = .r15

/-- In State.reset, the launch state of R331 that stands for reset (log entry 1), the processor is in THUMB state, and
memory is canonical and the pc aligned for that state; State.hardwareReset, the same machine in the ARM state a
hardware reset enters, meets the invariant too. The pc is log entry 3, the canonical memory log entry 6. Cites R331,
R330, R39. -/
def Obligations.ResetInvariant : Prop :=
  State.reset.cpsr.t = true ∧ RunInv State.reset ∧ RunInv State.hardwareReset

/-- From every state in which memory is canonical and the pc is a multiple of 2 in THUMB state and of 4 in ARM state, a
step that answers a next state gives such a state. So a misaligned fetch cannot arise. The canonical form is log
entry 6; dropping bit 0 of a value written to R15 is D10 (log entry 24), the stop of BX on an unaligned ARM target
D17 (log entry 16), the next states in ARM state log entries 11 and 12. Cites R25, R54, R27, R175. -/
def Obligations.StepKeepsInvariant : Prop :=
  ∀ s t : State, RunInv s → step s = .next t → RunInv t

/-- T is 1, the launch value of R331 (log entry 1), and the byte order little, the default of R52 (log entry 9);
Supervisor mode, I and F set and pc 0 follow GK15 (log entry 3); by the model's choice every register is zero (log
entry 2), N, Z, C, V and the reserved bits are zero (log entry 4), each SPSR has all bits zero and User mode in its
mode field (log entry 5), every byte of memory reads zero (log entry 6), the platform admits every aligned access
(log entry 7), the code range is empty (log entry 8), no free value is drawn (log entry 10) and no outcome recorded
(log entry 32). Cites R39, R330, R331, R52. -/
def Obligations.ResetValues : Prop :=
  State.reset.cpsr.t = true ∧ State.reset.endian = .little ∧ State.reset.cpsr.mode = .svc ∧
    State.reset.cpsr.i = true ∧ State.reset.cpsr.f = true ∧ State.reset.pc = 0 ∧
    State.reset.cpsr.n = false ∧ State.reset.cpsr.z = false ∧ State.reset.cpsr.c = false ∧
    State.reset.cpsr.v = false ∧ State.reset.cpsr.reserved = 0 ∧
    (∀ m, State.reset.spsr.get m =
      { n := false, z := false, c := false, v := false, reserved := 0, i := false, f := false, t := false,
        mode := .usr }) ∧
    State.hardwareReset.cpsr.t = false ∧ (∀ p, State.reset.regs.get p = 0) ∧
    (∀ x, State.reset.mem.read x = 0) ∧ State.reset.codeRange = [] ∧
    (∀ a w k, aligned a w = true → State.reset.admits a w k = true) ∧
    State.reset.draws = 0 ∧ State.reset.lastExit = none

/-- When an instruction other than SWI answers a next state, the mode, I and every SPSR are as before; and no
instruction at all changes F or the reserved bits of the CPSR. That SWI changes the mode, I and its SPSR and leaves
F and the reserved bits is GK2 and GK13 (log entry 14), its next state log entry 11. Cites R310, R24, R33, R35,
R301. -/
def Obligations.ModeChangesOnlyBySwi : Prop :=
  ∀ (i : Instr) (s t : State), exec i s = .next t →
    t.cpsr.f = s.cpsr.f ∧ t.cpsr.reserved = s.cpsr.reserved ∧
    (kindOf i ≠ .swi → t.cpsr.mode = s.cpsr.mode ∧ t.cpsr.i = s.cpsr.i ∧ t.spsr = s.spsr)

/-- When an instruction other than BX and SWI answers a next state, T and the recorded outcome (log entry 32) are as
before; after BX T is bit 0 of the register; after SWI T is 0. A step executes in THUMB state only. The next states
of SWI and of BX to ARM state are log entries 11 and 12, the refusal of a step in ARM state log entry 13. Cites R34,
R27, R301, R306. -/
def Obligations.StateChangesOnlyBySwiAndBx : Prop :=
  ∀ (i : Instr) (s t : State), exec i s = .next t →
    (kindOf i ≠ .swi → kindOf i ≠ .exchange → t.cpsr.t = s.cpsr.t ∧ t.lastExit = s.lastExit) ∧
    (kindOf i = .swi → t.cpsr.t = false) ∧
    (∀ rs sbz, i = .bxLo rs sbz → t.cpsr.t = (s.lo rs).getLsbD 0) ∧
    (∀ hs sbz, i = .bxHi hs sbz → t.cpsr.t = (s.hi hs).getLsbD 0) ∧
    (∀ u, step s = .next u → s.cpsr.t = true)

/-- A logical instruction leaves C and V, a shift and MUL leave V, and every instruction but the arithmetic and
comparing ones, the logical ones, the shifts and MUL leaves all four, SWI included. Which flags each kind leaves is
the third column of R30, GK4 to GK8 (log entry 22); the next state of SWI is log entry 11. Cites R30. -/
def Obligations.FlagsWrittenByKind : Prop :=
  ∀ (i : Instr) (s t : State), exec i s = .next t →
    (kindOf i = .logical → t.cpsr.c = s.cpsr.c ∧ t.cpsr.v = s.cpsr.v) ∧
    (kindOf i ∈ [Kind.shift, .multiply] → t.cpsr.v = s.cpsr.v) ∧
    (kindOf i ∉ [Kind.arithmetic, .hiCompare, .logical, .shift, .multiply] →
      t.cpsr.n = s.cpsr.n ∧ t.cpsr.z = s.cpsr.z ∧ t.cpsr.c = s.cpsr.c ∧ t.cpsr.v = s.cpsr.v)

/-- When an instruction answers a next state and is no store, PUSH or STMIA, memory is the same data; and whatever the
instruction, every byte in the code range reads as before. The premise of the second clause is that memory is in
canonical form. The code range is D12 (log entry 19). Cites R57, R59, R66. -/
def Obligations.MemoryWrittenByKind : Prop :=
  ∀ (i : Instr) (s t : State), exec i s = .next t →
    (kindOf i ∉ [Kind.store, .storeMany] → t.mem = s.mem) ∧
    (s.mem.wf = true → ∀ r ∈ s.codeRange, ∀ x, r.first ≤ x → x ≤ r.last → t.mem.read x = s.mem.read x)

/-- When an instruction answers a next state, every physical register that the current mode cannot name is as before,
except that SWI writes R14_svc; and the byte order, the admission and the code range never change. The banking is
GK3 (log entry 14). Cites R24, R310, R301, R52, R55, R66. -/
def Obligations.OtherModesKeepRegisters : Prop :=
  ∀ (i : Instr) (s t : State), exec i s = .next t →
    (∀ p, ¬ Visible s.cpsr.mode p → (kindOf i = .swi → p ≠ .r14Svc) → t.regs.get p = s.regs.get p) ∧
    t.endian = s.endian ∧ t.memAdmit = s.memAdmit ∧ t.codeRange = s.codeRange

/-- Whatever the number of steps, if a run reaches a state in THUMB state then the mode, I, F, the reserved bits and
every SPSR are those it started with. (A SWI ends in ARM state, in which a step is refused: log entry 13.) The modes
and the SPSRs are GK3 (log entry 14). Cites R310, R24. -/
def Obligations.ThumbRunsKeepMode : Prop :=
  ∀ (n : Nat) (s t : State), Reaches n s t → t.cpsr.t = true →
    t.cpsr.mode = s.cpsr.mode ∧ t.cpsr.i = s.cpsr.i ∧ t.cpsr.f = s.cpsr.f ∧
    t.cpsr.reserved = s.cpsr.reserved ∧ t.spsr = s.spsr

/-- An instruction that is not well-formed stops in every state; a well-formed one answers a next state in some state,
and in none does it stop for an undefined word, nonzero bits of BX, an empty list or a base register in an STMIA
list. That these uses stop is log entries 15 and 16. Cites R302, R303, R111, R112, R113, R175, R246, R248. -/
def Obligations.WellFormedHasEffect : Prop :=
  ∀ (i : Instr) (s : State),
    (i.wellFormed = false → ∃ f, exec i s = .fault f) ∧
    (i.wellFormed = true → (∃ u t, exec i u = .next t) ∧ (∀ w pc, exec i s ≠ .fault (.undefinedInstruction w pc)) ∧
      (∀ r ∈ [Reason.bxBitsNonzero, .emptyRegisterList, .stmBaseNotLowest], ∀ pc,
        exec i s ≠ .fault (.unpredictable r pc)))

/-- Executing any instruction in any state answers a next state or a fault, never a refusal. A step is refused in ARM
state only, and there always: the 32-bit instruction set is out of scope, so it is the refusal armState with the pc
and the recorded outcome, which the model keeps in a field of its own (log entry 32). That the step in ARM state is
a refusal is the model's choice (log entry 13). Cites R4, R5, R300, R306. -/
def Obligations.ExecNeverRefuses : Prop :=
  ∀ (i : Instr) (s : State), (∀ r, exec i s ≠ .refused r) ∧
    (∀ r, step s = .refused r → s.cpsr.t = false) ∧
    (s.cpsr.t = false → step s = .refused (.armState s.pc s.lastExit))

/-- The count of free values drawn goes up by one with each MUL and stays with every other instruction. The count is the
model's own field (log entry 10). Cites R154. -/
def Obligations.DrawsOnlyByMultiply : Prop :=
  ∀ (i : Instr) (s t : State), exec i s = .next t →
    t.draws = if kindOf i = .multiply then s.draws + 1 else s.draws

end Slice0Statements
end

