-- ==== Sys2Proof/Laws/Encoding.lean ====
section
/-! SUPPORT. Register fields and the parts of a word (rules R7, R21, R170). -/

namespace Sys2Proof

@[simp] theorem LoReg.ofBits_toBits (r : LoReg) : LoReg.ofBits r.toBits = r := by
  cases r <;> rfl

@[simp] theorem HiReg.ofBits_toBits (h : HiReg) : HiReg.ofBits h.toBits = h := by
  cases h <;> rfl

@[simp] theorem LoReg.toBits_ofBits (f : BitVec 3) : (LoReg.ofBits f).toBits = f := by
  revert f; decide

@[simp] theorem HiReg.toBits_ofBits (f : BitVec 3) : (HiReg.ofBits f).toBits = f := by
  revert f; decide

/-- A field inside the low part of a word. -/
theorem extract_append_low {m n : Nat} (x : BitVec m) (y : BitVec n) (lo len : Nat) (h : lo + len ≤ n) :
    (x ++ y).extractLsb' lo len = y.extractLsb' lo len := by
  apply BitVec.eq_of_getLsbD_eq
  intro i hi
  simp only [BitVec.getLsbD_extractLsb', BitVec.getLsbD_append, hi, decide_true, Bool.true_and,
    show lo + i < n by omega, if_true]

/-- A field inside the high part of a word. -/
theorem extract_append_high {m n : Nat} (x : BitVec m) (y : BitVec n) (lo len : Nat) (h : n ≤ lo) :
    (x ++ y).extractLsb' lo len = x.extractLsb' (lo - n) len := by
  apply BitVec.eq_of_getLsbD_eq
  intro i hi
  simp only [BitVec.getLsbD_extractLsb', BitVec.getLsbD_append, hi, decide_true, Bool.true_and,
    show ¬ lo + i < n by omega, if_false, show lo + i - n = lo - n + i by omega]

/-- The field that is all of a value. -/
theorem extract_all {n : Nat} (x : BitVec n) : x.extractLsb' 0 n = x := by
  apply BitVec.eq_of_getLsbD_eq
  intro i hi
  simp only [BitVec.getLsbD_extractLsb', hi, decide_true, Bool.true_and, Nat.zero_add]

/-- Two neighbouring fields joined are one field. -/
theorem extract_join {n : Nat} (w : BitVec n) (lo m k : Nat) :
    w.extractLsb' (lo + k) m ++ w.extractLsb' lo k = w.extractLsb' lo (m + k) := by
  apply BitVec.eq_of_getLsbD_eq
  intro i hi
  simp only [BitVec.getLsbD_append, BitVec.getLsbD_extractLsb', hi, decide_true, Bool.true_and]
  by_cases h : i < k
  · simp [h]
  · simp only [h, if_false, show i - k < m by omega, decide_true, Bool.true_and]
    rw [show lo + k + (i - k) = lo + i by omega]

end Sys2Proof
end

