-- ==== Sys2Proof/Laws/Flags.lean ====
section
/-! SUPPORT. What the arithmetic and shift operations give, by the spec's formulas on numbers (rules R11, R121 to R123, R143
to R148). -/

namespace Sys2Proof.Machine

/-! ### Flags from a result -/

theorem msb_iff (r : Word) : r.getLsbD 31 = decide (2 ^ 31 ≤ r.toNat) := by
  have : r.getLsbD 31 = r.msb := by rw [BitVec.msb_eq_getLsbD_last]
  rw [this, BitVec.msb_eq_decide]

theorem zero_iff (r : Word) : decide (r = 0) = decide (r.toNat = 0) := by
  refine decide_eq_decide.2 ⟨fun h => by rw [h]; rfl, fun h => BitVec.eq_of_toNat_eq h⟩

theorem Psr.withNZ_eq (p : Psr) (r : Word) : p.withNZ r = p.after r p.c p.v := by
  simp only [Psr.withNZ, Psr.after, msb_iff, zero_iff]

theorem Psr.withShift_eq (p : Psr) (r : ShiftResult) : p.withShift r = p.after r.result r.carry p.v := by
  simp only [Psr.withShift, Psr.after, msb_iff, zero_iff]

theorem Psr.withAdd_eq (p : Psr) (r : AddResult) : p.withAdd r = p.after r.result r.carry r.ovf := by
  simp only [Psr.withAdd, Psr.after, msb_iff, zero_iff]

/-! ### Sums and differences -/

/-- `AddWithCarry` is a sum (rule R11). -/
theorem isSum_addWithCarry (p : Psr) (a b : Word) (c : Bool) :
    IsSum p (p.withAdd (addWithCarry a b c)) a b c.toNat (addWithCarry a b c).result := by
  refine ⟨?_, Psr.withAdd_eq _ _⟩
  simp only [addWithCarry, BitVec.toNat_ofNat]

theorem isSum_addOp (p : Psr) (a b : Word) : IsSum p (p.withAdd (addOp a b)) a b 0 (addOp a b).result :=
  isSum_addWithCarry p a b false

theorem toInt_not (b : Word) : (~~~b).toInt = -1 - b.toInt := by
  have h : (~~~b).toNat = 2 ^ 32 - 1 - b.toNat := BitVec.toNat_not
  have hb := b.isLt
  rw [BitVec.toInt_eq_toNat_cond, BitVec.toInt_eq_toNat_cond, h]
  split <;> split <;> omega

/-- `AddWithCarry` of a complement is a difference: the carry is 1 when there is no borrow (rule R11). -/
theorem isDiff_addWithCarry (p : Psr) (a b : Word) (c : Bool) :
    IsDiff p (p.withAdd (addWithCarry a (~~~b) c)) a b (1 - c.toNat) (addWithCarry a (~~~b) c).result := by
  have hn : (~~~b).toNat = 2 ^ 32 - 1 - b.toNat := BitVec.toNat_not
  have hb := b.isLt
  have ha := a.isLt
  have hi := toInt_not b
  have hc : c.toNat ≤ 1 := by cases c <;> decide
  constructor
  · simp only [addWithCarry, BitVec.toNat_ofNat, hn]
    omega
  · rw [Psr.withAdd_eq]
    congr 1
    · simp only [addWithCarry, hn, decide_eq_decide]
      omega
    · simp only [addWithCarry, hi, decide_eq_decide]
      omega

theorem isDiff_subOp (p : Psr) (a b : Word) : IsDiff p (p.withAdd (subOp a b)) a b 0 (subOp a b).result :=
  isDiff_addWithCarry p a b true

/-! ### Shifts -/

theorem shiftLeft_toNat (v : Word) (s : Nat) (c : Bool) :
    (shiftLeft v s c).result.toNat = v.toNat * 2 ^ s % 2 ^ 32 := by
  unfold shiftLeft
  have hv := v.isLt
  split
  · subst s; simp only [pow_zero, mul_one]; exact (Nat.mod_eq_of_lt hv).symm
  · split
    · rw [BitVec.toNat_shiftLeft, Nat.shiftLeft_eq]
    · have h32 : v.toNat * 2 ^ s % 2 ^ 32 = 0 := by
        obtain ⟨k, rfl⟩ := Nat.exists_eq_add_of_le (show 32 ≤ s by omega)
        rw [Nat.pow_add]
        exact Nat.mod_eq_zero_of_dvd (Dvd.intro_left (v.toNat * 2 ^ k) (by ring))
      rw [h32]
      split <;> rfl

theorem shiftLeft_carry (v : Word) (s : Nat) (c : Bool) :
    (shiftLeft v s c).carry = if s = 0 then c else if s ≤ 32 then v.getLsbD (32 - s) else false := by
  unfold shiftLeft
  repeat' split
  all_goals first | rfl | omega | (subst s; rfl)

theorem shiftRight_toNat (v : Word) (s : Nat) (c : Bool) : (shiftRight v s c).result.toNat = v.toNat / 2 ^ s := by
  unfold shiftRight
  have hv := v.isLt
  split
  · subst s; simp
  · split
    · rw [BitVec.toNat_ushiftRight, Nat.shiftRight_eq_div_pow]
    · have h0 : v.toNat / 2 ^ s = 0 :=
        Nat.div_eq_of_lt (hv.trans_le (Nat.pow_le_pow_right (by norm_num) (by omega)))
      split <;> simp [h0]

theorem shiftRight_carry (v : Word) (s : Nat) (c : Bool) :
    (shiftRight v s c).carry = if s = 0 then c else if s ≤ 32 then v.getLsbD (s - 1) else false := by
  unfold shiftRight
  repeat' split
  all_goals first | rfl | omega | (subst s; rfl)

theorem shiftArith_toInt (v : Word) (s : Nat) (c : Bool) : (shiftArith v s c).result.toInt = v.toInt / 2 ^ s := by
  unfold shiftArith
  split
  · subst s; simp
  · split
    · simp [BitVec.toInt_sshiftRight, Int.shiftRight_eq_div_pow]
    · have hs : (2 : Int) ^ 32 ≤ 2 ^ s := pow_le_pow_right₀ (by norm_num) (by omega)
      have hl := BitVec.le_toInt v
      have hu := BitVec.toInt_lt (x := v)
      have hm := msb_iff v
      have hc := BitVec.toInt_eq_toNat_cond v
      by_cases h : v.getLsbD 31 = true
      · simp only [h, if_true]
        rw [h] at hm
        have h1 : 2 ^ 31 ≤ v.toNat := of_decide_eq_true hm.symm
        rw [if_neg (by omega)] at hc
        have hneg : v.toInt < 0 := by have := v.isLt; omega
        have : v.toInt / 2 ^ s = -1 := by
          rw [Int.ediv_eq_iff_of_pos (by positivity)]
          constructor <;> push_cast at * <;> omega
        rw [this]; rfl
      · simp only [h]
        rw [Bool.eq_false_iff.2 h] at hm
        have h1 : ¬ 2 ^ 31 ≤ v.toNat := of_decide_eq_false hm.symm
        rw [if_pos (by omega)] at hc
        have : v.toInt / 2 ^ s = 0 := Int.ediv_eq_zero_of_lt (by omega) (by push_cast at *; omega)
        rw [this]; rfl

theorem shiftArith_carry (v : Word) (s : Nat) (c : Bool) :
    (shiftArith v s c).carry = if s = 0 then c else if s < 32 then v.getLsbD (s - 1) else v.getLsbD 31 := by
  unfold shiftArith
  repeat' split
  all_goals rfl

theorem rotateRight_bit (v : Word) (s : Nat) (c : Bool) {i : Nat} (hi : i < 32) :
    (rotateRight v s c).result.getLsbD i = v.getLsbD ((i + s) % 32) := by
  unfold rotateRight
  split
  · subst s; simp [Nat.mod_eq_of_lt hi]
  · split
    · rw [show (i + s) % 32 = i by omega]
    · simp only [BitVec.getLsbD_or, BitVec.getLsbD_ushiftRight, BitVec.getLsbD_shiftLeft, hi, decide_true, Bool.true_and]
      by_cases h : i + s % 32 < 32
      · rw [show (i + s) % 32 = s % 32 + i by omega]
        simp [show i < 32 - s % 32 by omega]
      · rw [show (i + s) % 32 = i - (32 - s % 32) by omega, BitVec.getLsbD_of_ge v (s % 32 + i) (by omega)]
        simp [show ¬ i < 32 - s % 32 by omega]

theorem rotateRight_carry (v : Word) (s : Nat) (c : Bool) :
    (rotateRight v s c).carry = if s = 0 then c else (rotateRight v s c).result.getLsbD 31 := by
  unfold rotateRight
  repeat' split
  all_goals rfl

end Sys2Proof.Machine
end

