-- ==== Sys2Proof/Laws/State.lean ====
section
/-! SUPPORT. What each update of the state leaves in each field, so that no proof unfolds a record update. -/

namespace Sys2Proof.Machine

/-! ### setReg -/

@[simp] theorem State.setReg_regs (s : State) (p : PReg) (v : Word) :
    (s.setReg p v).regs = s.regs.set p v := rfl

@[simp] theorem State.setReg_pc (s : State) (p : PReg) (v : Word) :
    (s.setReg p v).pc = s.pc := rfl

@[simp] theorem State.setReg_cpsr (s : State) (p : PReg) (v : Word) :
    (s.setReg p v).cpsr = s.cpsr := rfl

@[simp] theorem State.setReg_spsr (s : State) (p : PReg) (v : Word) :
    (s.setReg p v).spsr = s.spsr := rfl

@[simp] theorem State.setReg_mem (s : State) (p : PReg) (v : Word) :
    (s.setReg p v).mem = s.mem := rfl

@[simp] theorem State.setReg_endian (s : State) (p : PReg) (v : Word) :
    (s.setReg p v).endian = s.endian := rfl

@[simp] theorem State.setReg_memAdmit (s : State) (p : PReg) (v : Word) :
    (s.setReg p v).memAdmit = s.memAdmit := rfl

@[simp] theorem State.setReg_codeRange (s : State) (p : PReg) (v : Word) :
    (s.setReg p v).codeRange = s.codeRange := rfl

@[simp] theorem State.setReg_draws (s : State) (p : PReg) (v : Word) :
    (s.setReg p v).draws = s.draws := rfl

@[simp] theorem State.setReg_lastExit (s : State) (p : PReg) (v : Word) :
    (s.setReg p v).lastExit = s.lastExit := rfl

/-! ### setPc -/

@[simp] theorem State.setPc_regs (s : State) (a : Word) :
    (s.setPc a).regs = s.regs := rfl

@[simp] theorem State.setPc_pc (s : State) (a : Word) :
    (s.setPc a).pc = a := rfl

@[simp] theorem State.setPc_cpsr (s : State) (a : Word) :
    (s.setPc a).cpsr = s.cpsr := rfl

@[simp] theorem State.setPc_spsr (s : State) (a : Word) :
    (s.setPc a).spsr = s.spsr := rfl

@[simp] theorem State.setPc_mem (s : State) (a : Word) :
    (s.setPc a).mem = s.mem := rfl

@[simp] theorem State.setPc_endian (s : State) (a : Word) :
    (s.setPc a).endian = s.endian := rfl

@[simp] theorem State.setPc_memAdmit (s : State) (a : Word) :
    (s.setPc a).memAdmit = s.memAdmit := rfl

@[simp] theorem State.setPc_codeRange (s : State) (a : Word) :
    (s.setPc a).codeRange = s.codeRange := rfl

@[simp] theorem State.setPc_draws (s : State) (a : Word) :
    (s.setPc a).draws = s.draws := rfl

@[simp] theorem State.setPc_lastExit (s : State) (a : Word) :
    (s.setPc a).lastExit = s.lastExit := rfl

/-! ### setCpsr -/

@[simp] theorem State.setCpsr_regs (s : State) (p : Psr) :
    (s.setCpsr p).regs = s.regs := rfl

@[simp] theorem State.setCpsr_pc (s : State) (p : Psr) :
    (s.setCpsr p).pc = s.pc := rfl

@[simp] theorem State.setCpsr_cpsr (s : State) (p : Psr) :
    (s.setCpsr p).cpsr = p := rfl

@[simp] theorem State.setCpsr_spsr (s : State) (p : Psr) :
    (s.setCpsr p).spsr = s.spsr := rfl

@[simp] theorem State.setCpsr_mem (s : State) (p : Psr) :
    (s.setCpsr p).mem = s.mem := rfl

@[simp] theorem State.setCpsr_endian (s : State) (p : Psr) :
    (s.setCpsr p).endian = s.endian := rfl

@[simp] theorem State.setCpsr_memAdmit (s : State) (p : Psr) :
    (s.setCpsr p).memAdmit = s.memAdmit := rfl

@[simp] theorem State.setCpsr_codeRange (s : State) (p : Psr) :
    (s.setCpsr p).codeRange = s.codeRange := rfl

@[simp] theorem State.setCpsr_draws (s : State) (p : Psr) :
    (s.setCpsr p).draws = s.draws := rfl

@[simp] theorem State.setCpsr_lastExit (s : State) (p : Psr) :
    (s.setCpsr p).lastExit = s.lastExit := rfl

/-! ### setMem -/

@[simp] theorem State.setMem_regs (s : State) (m : Memory) :
    (s.setMem m).regs = s.regs := rfl

@[simp] theorem State.setMem_pc (s : State) (m : Memory) :
    (s.setMem m).pc = s.pc := rfl

@[simp] theorem State.setMem_cpsr (s : State) (m : Memory) :
    (s.setMem m).cpsr = s.cpsr := rfl

@[simp] theorem State.setMem_spsr (s : State) (m : Memory) :
    (s.setMem m).spsr = s.spsr := rfl

@[simp] theorem State.setMem_mem (s : State) (m : Memory) :
    (s.setMem m).mem = m := rfl

@[simp] theorem State.setMem_endian (s : State) (m : Memory) :
    (s.setMem m).endian = s.endian := rfl

@[simp] theorem State.setMem_memAdmit (s : State) (m : Memory) :
    (s.setMem m).memAdmit = s.memAdmit := rfl

@[simp] theorem State.setMem_codeRange (s : State) (m : Memory) :
    (s.setMem m).codeRange = s.codeRange := rfl

@[simp] theorem State.setMem_draws (s : State) (m : Memory) :
    (s.setMem m).draws = s.draws := rfl

@[simp] theorem State.setMem_lastExit (s : State) (m : Memory) :
    (s.setMem m).lastExit = s.lastExit := rfl

/-! ### setSpsr -/

@[simp] theorem State.setSpsr_regs (s : State) (f : SpsrFile) :
    (s.setSpsr f).regs = s.regs := rfl

@[simp] theorem State.setSpsr_pc (s : State) (f : SpsrFile) :
    (s.setSpsr f).pc = s.pc := rfl

@[simp] theorem State.setSpsr_cpsr (s : State) (f : SpsrFile) :
    (s.setSpsr f).cpsr = s.cpsr := rfl

@[simp] theorem State.setSpsr_spsr (s : State) (f : SpsrFile) :
    (s.setSpsr f).spsr = f := rfl

@[simp] theorem State.setSpsr_mem (s : State) (f : SpsrFile) :
    (s.setSpsr f).mem = s.mem := rfl

@[simp] theorem State.setSpsr_endian (s : State) (f : SpsrFile) :
    (s.setSpsr f).endian = s.endian := rfl

@[simp] theorem State.setSpsr_memAdmit (s : State) (f : SpsrFile) :
    (s.setSpsr f).memAdmit = s.memAdmit := rfl

@[simp] theorem State.setSpsr_codeRange (s : State) (f : SpsrFile) :
    (s.setSpsr f).codeRange = s.codeRange := rfl

@[simp] theorem State.setSpsr_draws (s : State) (f : SpsrFile) :
    (s.setSpsr f).draws = s.draws := rfl

@[simp] theorem State.setSpsr_lastExit (s : State) (f : SpsrFile) :
    (s.setSpsr f).lastExit = s.lastExit := rfl

/-! ### countDraw -/

@[simp] theorem State.countDraw_regs (s : State) :
    (s.countDraw).regs = s.regs := rfl

@[simp] theorem State.countDraw_pc (s : State) :
    (s.countDraw).pc = s.pc := rfl

@[simp] theorem State.countDraw_cpsr (s : State) :
    (s.countDraw).cpsr = s.cpsr := rfl

@[simp] theorem State.countDraw_spsr (s : State) :
    (s.countDraw).spsr = s.spsr := rfl

@[simp] theorem State.countDraw_mem (s : State) :
    (s.countDraw).mem = s.mem := rfl

@[simp] theorem State.countDraw_endian (s : State) :
    (s.countDraw).endian = s.endian := rfl

@[simp] theorem State.countDraw_memAdmit (s : State) :
    (s.countDraw).memAdmit = s.memAdmit := rfl

@[simp] theorem State.countDraw_codeRange (s : State) :
    (s.countDraw).codeRange = s.codeRange := rfl

@[simp] theorem State.countDraw_draws (s : State) :
    (s.countDraw).draws = s.draws + 1 := rfl

@[simp] theorem State.countDraw_lastExit (s : State) :
    (s.countDraw).lastExit = s.lastExit := rfl

/-! ### setExit -/

@[simp] theorem State.setExit_regs (s : State) (e : ThumbExit) :
    (s.setExit e).regs = s.regs := rfl

@[simp] theorem State.setExit_pc (s : State) (e : ThumbExit) :
    (s.setExit e).pc = s.pc := rfl

@[simp] theorem State.setExit_cpsr (s : State) (e : ThumbExit) :
    (s.setExit e).cpsr = s.cpsr := rfl

@[simp] theorem State.setExit_spsr (s : State) (e : ThumbExit) :
    (s.setExit e).spsr = s.spsr := rfl

@[simp] theorem State.setExit_mem (s : State) (e : ThumbExit) :
    (s.setExit e).mem = s.mem := rfl

@[simp] theorem State.setExit_endian (s : State) (e : ThumbExit) :
    (s.setExit e).endian = s.endian := rfl

@[simp] theorem State.setExit_memAdmit (s : State) (e : ThumbExit) :
    (s.setExit e).memAdmit = s.memAdmit := rfl

@[simp] theorem State.setExit_codeRange (s : State) (e : ThumbExit) :
    (s.setExit e).codeRange = s.codeRange := rfl

@[simp] theorem State.setExit_draws (s : State) (e : ThumbExit) :
    (s.setExit e).draws = s.draws := rfl

@[simp] theorem State.setExit_lastExit (s : State) (e : ThumbExit) :
    (s.setExit e).lastExit = some e := rfl

/-! ### setLo -/

@[simp] theorem State.setLo_regs (s : State) (r : LoReg) (v : Word) :
    (s.setLo r v).regs = s.regs.set (loPReg r) v := rfl

@[simp] theorem State.setLo_pc (s : State) (r : LoReg) (v : Word) :
    (s.setLo r v).pc = s.pc := rfl

@[simp] theorem State.setLo_cpsr (s : State) (r : LoReg) (v : Word) :
    (s.setLo r v).cpsr = s.cpsr := rfl

@[simp] theorem State.setLo_spsr (s : State) (r : LoReg) (v : Word) :
    (s.setLo r v).spsr = s.spsr := rfl

@[simp] theorem State.setLo_mem (s : State) (r : LoReg) (v : Word) :
    (s.setLo r v).mem = s.mem := rfl

@[simp] theorem State.setLo_endian (s : State) (r : LoReg) (v : Word) :
    (s.setLo r v).endian = s.endian := rfl

@[simp] theorem State.setLo_memAdmit (s : State) (r : LoReg) (v : Word) :
    (s.setLo r v).memAdmit = s.memAdmit := rfl

@[simp] theorem State.setLo_codeRange (s : State) (r : LoReg) (v : Word) :
    (s.setLo r v).codeRange = s.codeRange := rfl

@[simp] theorem State.setLo_draws (s : State) (r : LoReg) (v : Word) :
    (s.setLo r v).draws = s.draws := rfl

@[simp] theorem State.setLo_lastExit (s : State) (r : LoReg) (v : Word) :
    (s.setLo r v).lastExit = s.lastExit := rfl

/-! ### setSp -/

@[simp] theorem State.setSp_regs (s : State) (v : Word) :
    (s.setSp v).regs = s.regs.set (spPReg s.cpsr.mode) v := rfl

@[simp] theorem State.setSp_pc (s : State) (v : Word) :
    (s.setSp v).pc = s.pc := rfl

@[simp] theorem State.setSp_cpsr (s : State) (v : Word) :
    (s.setSp v).cpsr = s.cpsr := rfl

@[simp] theorem State.setSp_spsr (s : State) (v : Word) :
    (s.setSp v).spsr = s.spsr := rfl

@[simp] theorem State.setSp_mem (s : State) (v : Word) :
    (s.setSp v).mem = s.mem := rfl

@[simp] theorem State.setSp_endian (s : State) (v : Word) :
    (s.setSp v).endian = s.endian := rfl

@[simp] theorem State.setSp_memAdmit (s : State) (v : Word) :
    (s.setSp v).memAdmit = s.memAdmit := rfl

@[simp] theorem State.setSp_codeRange (s : State) (v : Word) :
    (s.setSp v).codeRange = s.codeRange := rfl

@[simp] theorem State.setSp_draws (s : State) (v : Word) :
    (s.setSp v).draws = s.draws := rfl

@[simp] theorem State.setSp_lastExit (s : State) (v : Word) :
    (s.setSp v).lastExit = s.lastExit := rfl

/-! ### setLr -/

@[simp] theorem State.setLr_regs (s : State) (v : Word) :
    (s.setLr v).regs = s.regs.set (lrPReg s.cpsr.mode) v := rfl

@[simp] theorem State.setLr_pc (s : State) (v : Word) :
    (s.setLr v).pc = s.pc := rfl

@[simp] theorem State.setLr_cpsr (s : State) (v : Word) :
    (s.setLr v).cpsr = s.cpsr := rfl

@[simp] theorem State.setLr_spsr (s : State) (v : Word) :
    (s.setLr v).spsr = s.spsr := rfl

@[simp] theorem State.setLr_mem (s : State) (v : Word) :
    (s.setLr v).mem = s.mem := rfl

@[simp] theorem State.setLr_endian (s : State) (v : Word) :
    (s.setLr v).endian = s.endian := rfl

@[simp] theorem State.setLr_memAdmit (s : State) (v : Word) :
    (s.setLr v).memAdmit = s.memAdmit := rfl

@[simp] theorem State.setLr_codeRange (s : State) (v : Word) :
    (s.setLr v).codeRange = s.codeRange := rfl

@[simp] theorem State.setLr_draws (s : State) (v : Word) :
    (s.setLr v).draws = s.draws := rfl

@[simp] theorem State.setLr_lastExit (s : State) (v : Word) :
    (s.setLr v).lastExit = s.lastExit := rfl

/-! ### flagsNZ -/

@[simp] theorem State.flagsNZ_regs (s : State) (r : Word) :
    (s.flagsNZ r).regs = s.regs := rfl

@[simp] theorem State.flagsNZ_pc (s : State) (r : Word) :
    (s.flagsNZ r).pc = s.pc := rfl

@[simp] theorem State.flagsNZ_cpsr (s : State) (r : Word) :
    (s.flagsNZ r).cpsr = s.cpsr.withNZ r := rfl

@[simp] theorem State.flagsNZ_spsr (s : State) (r : Word) :
    (s.flagsNZ r).spsr = s.spsr := rfl

@[simp] theorem State.flagsNZ_mem (s : State) (r : Word) :
    (s.flagsNZ r).mem = s.mem := rfl

@[simp] theorem State.flagsNZ_endian (s : State) (r : Word) :
    (s.flagsNZ r).endian = s.endian := rfl

@[simp] theorem State.flagsNZ_memAdmit (s : State) (r : Word) :
    (s.flagsNZ r).memAdmit = s.memAdmit := rfl

@[simp] theorem State.flagsNZ_codeRange (s : State) (r : Word) :
    (s.flagsNZ r).codeRange = s.codeRange := rfl

@[simp] theorem State.flagsNZ_draws (s : State) (r : Word) :
    (s.flagsNZ r).draws = s.draws := rfl

@[simp] theorem State.flagsNZ_lastExit (s : State) (r : Word) :
    (s.flagsNZ r).lastExit = s.lastExit := rfl

/-! ### flagsShift -/

@[simp] theorem State.flagsShift_regs (s : State) (r : ShiftResult) :
    (s.flagsShift r).regs = s.regs := rfl

@[simp] theorem State.flagsShift_pc (s : State) (r : ShiftResult) :
    (s.flagsShift r).pc = s.pc := rfl

@[simp] theorem State.flagsShift_cpsr (s : State) (r : ShiftResult) :
    (s.flagsShift r).cpsr = s.cpsr.withShift r := rfl

@[simp] theorem State.flagsShift_spsr (s : State) (r : ShiftResult) :
    (s.flagsShift r).spsr = s.spsr := rfl

@[simp] theorem State.flagsShift_mem (s : State) (r : ShiftResult) :
    (s.flagsShift r).mem = s.mem := rfl

@[simp] theorem State.flagsShift_endian (s : State) (r : ShiftResult) :
    (s.flagsShift r).endian = s.endian := rfl

@[simp] theorem State.flagsShift_memAdmit (s : State) (r : ShiftResult) :
    (s.flagsShift r).memAdmit = s.memAdmit := rfl

@[simp] theorem State.flagsShift_codeRange (s : State) (r : ShiftResult) :
    (s.flagsShift r).codeRange = s.codeRange := rfl

@[simp] theorem State.flagsShift_draws (s : State) (r : ShiftResult) :
    (s.flagsShift r).draws = s.draws := rfl

@[simp] theorem State.flagsShift_lastExit (s : State) (r : ShiftResult) :
    (s.flagsShift r).lastExit = s.lastExit := rfl

/-! ### flagsAdd -/

@[simp] theorem State.flagsAdd_regs (s : State) (r : AddResult) :
    (s.flagsAdd r).regs = s.regs := rfl

@[simp] theorem State.flagsAdd_pc (s : State) (r : AddResult) :
    (s.flagsAdd r).pc = s.pc := rfl

@[simp] theorem State.flagsAdd_cpsr (s : State) (r : AddResult) :
    (s.flagsAdd r).cpsr = s.cpsr.withAdd r := rfl

@[simp] theorem State.flagsAdd_spsr (s : State) (r : AddResult) :
    (s.flagsAdd r).spsr = s.spsr := rfl

@[simp] theorem State.flagsAdd_mem (s : State) (r : AddResult) :
    (s.flagsAdd r).mem = s.mem := rfl

@[simp] theorem State.flagsAdd_endian (s : State) (r : AddResult) :
    (s.flagsAdd r).endian = s.endian := rfl

@[simp] theorem State.flagsAdd_memAdmit (s : State) (r : AddResult) :
    (s.flagsAdd r).memAdmit = s.memAdmit := rfl

@[simp] theorem State.flagsAdd_codeRange (s : State) (r : AddResult) :
    (s.flagsAdd r).codeRange = s.codeRange := rfl

@[simp] theorem State.flagsAdd_draws (s : State) (r : AddResult) :
    (s.flagsAdd r).draws = s.draws := rfl

@[simp] theorem State.flagsAdd_lastExit (s : State) (r : AddResult) :
    (s.flagsAdd r).lastExit = s.lastExit := rfl

/-! ### branchTo -/

@[simp] theorem State.branchTo_regs (s : State) (v : Word) :
    (s.branchTo v).regs = s.regs := rfl

@[simp] theorem State.branchTo_pc (s : State) (v : Word) :
    (s.branchTo v).pc = v &&& 0xFFFFFFFE := rfl

@[simp] theorem State.branchTo_cpsr (s : State) (v : Word) :
    (s.branchTo v).cpsr = s.cpsr := rfl

@[simp] theorem State.branchTo_spsr (s : State) (v : Word) :
    (s.branchTo v).spsr = s.spsr := rfl

@[simp] theorem State.branchTo_mem (s : State) (v : Word) :
    (s.branchTo v).mem = s.mem := rfl

@[simp] theorem State.branchTo_endian (s : State) (v : Word) :
    (s.branchTo v).endian = s.endian := rfl

@[simp] theorem State.branchTo_memAdmit (s : State) (v : Word) :
    (s.branchTo v).memAdmit = s.memAdmit := rfl

@[simp] theorem State.branchTo_codeRange (s : State) (v : Word) :
    (s.branchTo v).codeRange = s.codeRange := rfl

@[simp] theorem State.branchTo_draws (s : State) (v : Word) :
    (s.branchTo v).draws = s.draws := rfl

@[simp] theorem State.branchTo_lastExit (s : State) (v : Word) :
    (s.branchTo v).lastExit = s.lastExit := rfl

/-! ### poke -/

@[simp] theorem State.poke_regs (s : State) (a : Word) (w : Width) (v : Word) :
    (s.poke a w v).regs = s.regs := rfl

@[simp] theorem State.poke_pc (s : State) (a : Word) (w : Width) (v : Word) :
    (s.poke a w v).pc = s.pc := rfl

@[simp] theorem State.poke_cpsr (s : State) (a : Word) (w : Width) (v : Word) :
    (s.poke a w v).cpsr = s.cpsr := rfl

@[simp] theorem State.poke_spsr (s : State) (a : Word) (w : Width) (v : Word) :
    (s.poke a w v).spsr = s.spsr := rfl

@[simp] theorem State.poke_mem (s : State) (a : Word) (w : Width) (v : Word) :
    (s.poke a w v).mem = s.mem.writeBytes a (splitBytes s.endian w.bytes v.toNat) := rfl

@[simp] theorem State.poke_endian (s : State) (a : Word) (w : Width) (v : Word) :
    (s.poke a w v).endian = s.endian := rfl

@[simp] theorem State.poke_memAdmit (s : State) (a : Word) (w : Width) (v : Word) :
    (s.poke a w v).memAdmit = s.memAdmit := rfl

@[simp] theorem State.poke_codeRange (s : State) (a : Word) (w : Width) (v : Word) :
    (s.poke a w v).codeRange = s.codeRange := rfl

@[simp] theorem State.poke_draws (s : State) (a : Word) (w : Width) (v : Word) :
    (s.poke a w v).draws = s.draws := rfl

@[simp] theorem State.poke_lastExit (s : State) (a : Word) (w : Width) (v : Word) :
    (s.poke a w v).lastExit = s.lastExit := rfl

/-! ### enterException -/

@[simp] theorem State.enterException_regs (s : State) (m : ExcMode) (vector ret : Word) :
    (s.enterException m vector ret).regs = s.regs.set (lrPReg m.toMode) ret := rfl

@[simp] theorem State.enterException_pc (s : State) (m : ExcMode) (vector ret : Word) :
    (s.enterException m vector ret).pc = vector := rfl

@[simp] theorem State.enterException_cpsr (s : State) (m : ExcMode) (vector ret : Word) :
    (s.enterException m vector ret).cpsr = s.cpsr.entering m := rfl

@[simp] theorem State.enterException_spsr (s : State) (m : ExcMode) (vector ret : Word) :
    (s.enterException m vector ret).spsr = s.spsr.set m s.cpsr := rfl

@[simp] theorem State.enterException_mem (s : State) (m : ExcMode) (vector ret : Word) :
    (s.enterException m vector ret).mem = s.mem := rfl

@[simp] theorem State.enterException_endian (s : State) (m : ExcMode) (vector ret : Word) :
    (s.enterException m vector ret).endian = s.endian := rfl

@[simp] theorem State.enterException_memAdmit (s : State) (m : ExcMode) (vector ret : Word) :
    (s.enterException m vector ret).memAdmit = s.memAdmit := rfl

@[simp] theorem State.enterException_codeRange (s : State) (m : ExcMode) (vector ret : Word) :
    (s.enterException m vector ret).codeRange = s.codeRange := rfl

@[simp] theorem State.enterException_draws (s : State) (m : ExcMode) (vector ret : Word) :
    (s.enterException m vector ret).draws = s.draws := rfl

@[simp] theorem State.enterException_lastExit (s : State) (m : ExcMode) (vector ret : Word) :
    (s.enterException m vector ret).lastExit = s.lastExit := rfl

/-! ### Fields of a status register -/

@[simp] theorem Psr.withNZ_n (p : Psr) (r : Word) :
    (p.withNZ r).n = r.getLsbD 31 := rfl

@[simp] theorem Psr.withNZ_z (p : Psr) (r : Word) :
    (p.withNZ r).z = decide (r = 0) := rfl

@[simp] theorem Psr.withNZ_c (p : Psr) (r : Word) :
    (p.withNZ r).c = p.c := rfl

@[simp] theorem Psr.withNZ_v (p : Psr) (r : Word) :
    (p.withNZ r).v = p.v := rfl

@[simp] theorem Psr.withNZ_reserved (p : Psr) (r : Word) :
    (p.withNZ r).reserved = p.reserved := rfl

@[simp] theorem Psr.withNZ_i (p : Psr) (r : Word) :
    (p.withNZ r).i = p.i := rfl

@[simp] theorem Psr.withNZ_f (p : Psr) (r : Word) :
    (p.withNZ r).f = p.f := rfl

@[simp] theorem Psr.withNZ_t (p : Psr) (r : Word) :
    (p.withNZ r).t = p.t := rfl

@[simp] theorem Psr.withNZ_mode (p : Psr) (r : Word) :
    (p.withNZ r).mode = p.mode := rfl

@[simp] theorem Psr.withShift_n (p : Psr) (r : ShiftResult) :
    (p.withShift r).n = r.result.getLsbD 31 := rfl

@[simp] theorem Psr.withShift_z (p : Psr) (r : ShiftResult) :
    (p.withShift r).z = decide (r.result = 0) := rfl

@[simp] theorem Psr.withShift_c (p : Psr) (r : ShiftResult) :
    (p.withShift r).c = r.carry := rfl

@[simp] theorem Psr.withShift_v (p : Psr) (r : ShiftResult) :
    (p.withShift r).v = p.v := rfl

@[simp] theorem Psr.withShift_reserved (p : Psr) (r : ShiftResult) :
    (p.withShift r).reserved = p.reserved := rfl

@[simp] theorem Psr.withShift_i (p : Psr) (r : ShiftResult) :
    (p.withShift r).i = p.i := rfl

@[simp] theorem Psr.withShift_f (p : Psr) (r : ShiftResult) :
    (p.withShift r).f = p.f := rfl

@[simp] theorem Psr.withShift_t (p : Psr) (r : ShiftResult) :
    (p.withShift r).t = p.t := rfl

@[simp] theorem Psr.withShift_mode (p : Psr) (r : ShiftResult) :
    (p.withShift r).mode = p.mode := rfl

@[simp] theorem Psr.withAdd_n (p : Psr) (r : AddResult) :
    (p.withAdd r).n = r.result.getLsbD 31 := rfl

@[simp] theorem Psr.withAdd_z (p : Psr) (r : AddResult) :
    (p.withAdd r).z = decide (r.result = 0) := rfl

@[simp] theorem Psr.withAdd_c (p : Psr) (r : AddResult) :
    (p.withAdd r).c = r.carry := rfl

@[simp] theorem Psr.withAdd_v (p : Psr) (r : AddResult) :
    (p.withAdd r).v = r.ovf := rfl

@[simp] theorem Psr.withAdd_reserved (p : Psr) (r : AddResult) :
    (p.withAdd r).reserved = p.reserved := rfl

@[simp] theorem Psr.withAdd_i (p : Psr) (r : AddResult) :
    (p.withAdd r).i = p.i := rfl

@[simp] theorem Psr.withAdd_f (p : Psr) (r : AddResult) :
    (p.withAdd r).f = p.f := rfl

@[simp] theorem Psr.withAdd_t (p : Psr) (r : AddResult) :
    (p.withAdd r).t = p.t := rfl

@[simp] theorem Psr.withAdd_mode (p : Psr) (r : AddResult) :
    (p.withAdd r).mode = p.mode := rfl

@[simp] theorem Psr.entering_n (p : Psr) (m : ExcMode) :
    (p.entering m).n = p.n := rfl

@[simp] theorem Psr.entering_z (p : Psr) (m : ExcMode) :
    (p.entering m).z = p.z := rfl

@[simp] theorem Psr.entering_c (p : Psr) (m : ExcMode) :
    (p.entering m).c = p.c := rfl

@[simp] theorem Psr.entering_v (p : Psr) (m : ExcMode) :
    (p.entering m).v = p.v := rfl

@[simp] theorem Psr.entering_reserved (p : Psr) (m : ExcMode) :
    (p.entering m).reserved = p.reserved := rfl

@[simp] theorem Psr.entering_i (p : Psr) (m : ExcMode) :
    (p.entering m).i = true := rfl

@[simp] theorem Psr.entering_f (p : Psr) (m : ExcMode) :
    (p.entering m).f = p.f := rfl

@[simp] theorem Psr.entering_t (p : Psr) (m : ExcMode) :
    (p.entering m).t = false := rfl

@[simp] theorem Psr.entering_mode (p : Psr) (m : ExcMode) :
    (p.entering m).mode = m.toMode := rfl

end Sys2Proof.Machine
end

