-- ==== Sys2Proof/Laws/Memory.lean ====
section
/-! SUPPORT. Memory: every operation keeps the canonical form, reading after writing, equal reads mean equal memories, and
values as bytes (rules R50 to R52, R59). -/

namespace Sys2Proof.Machine

/-! ### The canonical form -/

theorem Memory.wfAbove_cons {lo a : Nat} {b : Byte} {rest : Memory} :
    Memory.wfAbove lo ((a, b) :: rest) = true ↔
      lo ≤ a ∧ a < 2 ^ 32 ∧ b ≠ Config.unlistedByte ∧ Memory.wfAbove (a + 1) rest = true := by
  simp only [Memory.wfAbove, Bool.and_eq_true, decide_eq_true_eq, and_assoc]

theorem Memory.wfAbove_mono {lo hi : Nat} {m : Memory} (h : Memory.wfAbove hi m = true) (hl : lo ≤ hi) :
    Memory.wfAbove lo m = true := by
  cases m with
  | nil => rfl
  | cons e rest =>
    obtain ⟨a, b⟩ := e
    rw [Memory.wfAbove_cons] at h ⊢
    exact ⟨hl.trans h.1, h.2⟩

/-- Below the bound nothing is listed. -/
theorem Memory.read_below {lo x : Nat} {m : Memory} (h : Memory.wfAbove lo m = true) (hx : x < lo) :
    m.read x = Config.unlistedByte := by
  cases m with
  | nil => rfl
  | cons e rest =>
    obtain ⟨a, b⟩ := e
    rw [Memory.wfAbove_cons] at h
    simp only [Memory.read]
    rw [if_neg (by omega), if_pos (by omega)]

theorem Memory.wfAbove_entry {lo a : Nat} {b : Byte} {rest : Memory} (hl : lo ≤ a) (ha : a < 2 ^ 32)
    (h : Memory.wfAbove (a + 1) rest = true) : Memory.wfAbove lo (Memory.entry a b rest) = true := by
  unfold Memory.entry
  split
  · exact Memory.wfAbove_mono h (by omega)
  · exact Memory.wfAbove_cons.2 ⟨hl, ha, ‹_›, h⟩

theorem Memory.wfAbove_write {lo a : Nat} {b : Byte} {m : Memory} (h : Memory.wfAbove lo m = true) (hl : lo ≤ a)
    (ha : a < 2 ^ 32) : Memory.wfAbove lo (m.write a b) = true := by
  induction m generalizing lo with
  | nil => exact Memory.wfAbove_entry hl ha rfl
  | cons e rest ih =>
    obtain ⟨c, d⟩ := e
    rw [Memory.wfAbove_cons] at h
    obtain ⟨h1, h2, h3, h4⟩ := h
    simp only [Memory.write]
    split
    · subst a; exact Memory.wfAbove_entry hl ha h4
    · split
      · exact Memory.wfAbove_entry hl ha (Memory.wfAbove_cons.2 ⟨by omega, h2, h3, h4⟩)
      · exact Memory.wfAbove_cons.2 ⟨h1, h2, h3, ih h4 (by omega)⟩

/-- Writing a byte keeps the canonical form. -/
theorem Memory.wf_write {m : Memory} (h : m.wf = true) {a : Nat} (ha : a < 2 ^ 32) (b : Byte) :
    (m.write a b).wf = true :=
  Memory.wfAbove_write h (Nat.zero_le _) ha

/-- Writing bytes keeps the canonical form. -/
theorem Memory.wf_writeBytes {m : Memory} (h : m.wf = true) (a : Word) (bs : List Byte) :
    (m.writeBytes a bs).wf = true := by
  induction bs generalizing m a with
  | nil => exact h
  | cons b bs ih => exact ih (Memory.wf_write h a.isLt b) (a + 1)

/-- A store without checks keeps the canonical form. -/
theorem State.poke_wf {s : State} (h : s.mem.wf = true) (a : Word) (w : Width) (v : Word) :
    (s.poke a w v).mem.wf = true :=
  Memory.wf_writeBytes h a _

/-- The memory after reset has the canonical form. -/
theorem State.reset_wf : State.reset.mem.wf = true := rfl

/-! ### Reading after writing -/

theorem Memory.read_entry {lo a x : Nat} {b : Byte} {rest : Memory} (h : Memory.wfAbove lo rest = true) (hl : a < lo) :
    (Memory.entry a b rest).read x = if x = a then b else rest.read x := by
  unfold Memory.entry
  split
  · subst b
    split
    · subst x; exact Memory.read_below h hl
    · rfl
  · simp only [Memory.read]
    split
    · rfl
    · split
      · exact (Memory.read_below h (by omega)).symm
      · rfl

theorem Memory.read_write_above {lo a x : Nat} {b : Byte} {m : Memory} (h : Memory.wfAbove lo m = true) :
    (m.write a b).read x = if x = a then b else m.read x := by
  induction m generalizing lo with
  | nil => exact Memory.read_entry (lo := a + 1) rfl (Nat.lt_succ_self a)
  | cons e rest ih =>
    obtain ⟨c, d⟩ := e
    have h0 := h
    rw [Memory.wfAbove_cons] at h
    obtain ⟨h1, h2, h3, h4⟩ := h
    simp only [Memory.write]
    split
    · subst a
      rw [Memory.read_entry h4 (Nat.lt_succ_self c)]
      simp only [Memory.read]
      split
      · rfl
      · split
        · exact Memory.read_below h4 (by omega)
        · rfl
    · split
      · exact Memory.read_entry (lo := c) (Memory.wfAbove_cons.2 ⟨le_rfl, h2, h3, h4⟩) (by assumption)
      · simp only [Memory.read, ih h4]
        split
        · rw [if_neg (by omega)]
        · split
          · rw [if_neg (by omega)]
          · rfl

/-- A byte read after a byte write (rule R59). -/
theorem Memory.read_write {m : Memory} (h : m.wf = true) (a x : Nat) (b : Byte) :
    (m.write a b).read x = if x = a then b else m.read x :=
  Memory.read_write_above h

theorem toNat_add_one {a : Word} {n : Nat} (h : a.toNat + (n + 1) ≤ 2 ^ 32) (hn : 0 < n) :
    (a + 1).toNat = a.toNat + 1 := by
  have h1 : (1 : Word).toNat = 1 := rfl
  rw [BitVec.toNat_add, h1]
  omega

/-- Bytes below or above the written ones read as before. -/
theorem Memory.read_writeBytes_other {m : Memory} (h : m.wf = true) {a : Word} {bs : List Byte} {x : Nat}
    (hb : a.toNat + bs.length ≤ 2 ^ 32) (hx : ¬ bytesAt a bs.length x) : (m.writeBytes a bs).read x = m.read x := by
  induction bs generalizing m a with
  | nil => rfl
  | cons b bs ih =>
    simp only [bytesAt, List.length_cons] at hb hx
    simp only [Memory.writeBytes]
    rcases Nat.eq_zero_or_pos bs.length with h0 | h0
    · rw [List.length_eq_zero_iff.1 h0] at hx ⊢
      simp only [Memory.writeBytes, List.length_nil] at hx ⊢
      rw [Memory.read_write h, if_neg (by omega)]
    · have h1 := toNat_add_one hb h0
      rw [ih (Memory.wf_write h a.isLt b) (by omega) (by simp only [bytesAt]; omega), Memory.read_write h,
        if_neg (by omega)]

/-- The written bytes read back. -/
theorem Memory.readBytes_writeBytes {m : Memory} (h : m.wf = true) {a : Word} {bs : List Byte}
    (hb : a.toNat + bs.length ≤ 2 ^ 32) : (m.writeBytes a bs).readBytes a bs.length = bs := by
  induction bs generalizing m a with
  | nil => rfl
  | cons b bs ih =>
    simp only [List.length_cons] at hb
    simp only [Memory.writeBytes, Memory.readBytes, List.length_cons, List.cons.injEq]
    rcases Nat.eq_zero_or_pos bs.length with h0 | h0
    · rw [List.length_eq_zero_iff.1 h0]
      simp only [Memory.writeBytes, Memory.readBytes, List.length_nil, and_true]
      rw [Memory.read_write h, if_pos rfl]
    · have h1 := toNat_add_one hb h0
      refine ⟨?_, ih (Memory.wf_write h a.isLt b) (by omega)⟩
      rw [Memory.read_writeBytes_other (Memory.wf_write h a.isLt b) (by omega) (by simp only [bytesAt]; omega),
        Memory.read_write h, if_pos rfl]

/-- Two memories in canonical form that read alike are the same list. -/
theorem Memory.ext_read {lo : Nat} {m k : Memory} (hm : Memory.wfAbove lo m = true) (hk : Memory.wfAbove lo k = true)
    (h : ∀ x, m.read x = k.read x) : m = k := by
  induction m generalizing lo k with
  | nil =>
    cases k with
    | nil => rfl
    | cons e rest =>
      obtain ⟨a, b⟩ := e
      rw [Memory.wfAbove_cons] at hk
      have := h a
      simp only [Memory.read, if_true] at this
      exact absurd this.symm hk.2.2.1
  | cons e rest ih =>
    obtain ⟨a, b⟩ := e
    rw [Memory.wfAbove_cons] at hm
    cases k with
    | nil =>
      have := h a
      simp only [Memory.read, if_true] at this
      exact absurd this hm.2.2.1
    | cons e' rest' =>
      obtain ⟨c, d⟩ := e'
      rw [Memory.wfAbove_cons] at hk
      have ha := h a
      have hc := h c
      simp only [Memory.read, if_true] at ha hc
      have hac : a = c := by
        rcases Nat.lt_trichotomy a c with hlt | heq | hgt
        · rw [if_neg (by omega), if_pos hlt] at ha; exact absurd ha hm.2.2.1
        · exact heq
        · rw [if_neg (by omega), if_pos hgt] at hc; exact absurd hc.symm hk.2.2.1
      subst hac
      simp only [if_true] at ha
      subst ha
      congr 1
      refine ih hm.2.2.2 hk.2.2.2 (fun x => ?_)
      have hx := h x
      simp only [Memory.read] at hx
      by_cases h1 : x ≤ a
      · rw [Memory.read_below hm.2.2.2 (by omega), Memory.read_below hk.2.2.2 (by omega)]
      · rwa [if_neg (by omega), if_neg (by omega), if_neg (by omega), if_neg (by omega)] at hx

/-! ### Values as bytes -/

theorem joinLittle_splitLittle (n v : Nat) : joinLittle (splitLittle n v) = v % 256 ^ n := by
  induction n generalizing v with
  | zero => simp [splitLittle, joinLittle, Nat.mod_one]
  | succ n ih =>
    simp only [splitLittle, joinLittle, ih, BitVec.toNat_ofNat]
    rw [show 256 ^ (n + 1) = 256 * 256 ^ n from Nat.pow_succ', Nat.mod_mul]

theorem splitLittle_length (n v : Nat) : (splitLittle n v).length = n := by
  induction n generalizing v with
  | zero => rfl
  | succ n ih => simp only [splitLittle, List.length_cons, ih]

@[simp] theorem splitBytes_length (e : Endian) (n v : Nat) : (splitBytes e n v).length = n := by
  cases e <;> simp [splitBytes, splitLittle_length]

/-- Joining the bytes of a value gives its low part (rule R52). -/
theorem joinBytes_splitBytes (e : Endian) (n v : Nat) : joinBytes e (splitBytes e n v) = v % 256 ^ n := by
  cases e <;> simp [splitBytes, joinBytes, joinLittle_splitLittle]

/-- The formula of rule R52 is the value of the bytes at rising addresses. -/
theorem memValue_eq (e : Endian) (m : Memory) (a : Word) (w : Width) :
    memValue e m a w = joinBytes e (m.readBytes a w.bytes) := by
  have h2 : a + 1 + 1 = a + 2 := by bv_omega
  have h3 : a + 2 + 1 = a + 3 := by bv_omega
  cases w <;> cases e <;>
    simp only [memValue, joinBytes, Width.bytes, Memory.readBytes, joinLittle, h2, h3, List.reverse_cons,
      List.reverse_nil, List.nil_append, List.cons_append] <;> omega

theorem memValue_lt (e : Endian) (m : Memory) (a : Word) (w : Width) : memValue e m a w < 2 ^ (8 * w.bytes) := by
  have hb : ∀ x, (m.read x).toNat < 256 := fun x => (m.read x).isLt
  have h0 := hb a.toNat
  have h1 := hb (a + 1).toNat
  have h2 := hb (a + 2).toNat
  have h3 := hb (a + 3).toNat
  cases w <;> cases e <;> simp only [memValue, Width.bytes] <;> omega

theorem State.value_lt (s : State) (a : Word) (w : Width) : s.value a w < 2 ^ (8 * w.bytes) :=
  memValue_lt _ _ _ _

/-- What an access without checks reads. -/
theorem State.peek_eq (s : State) (a : Word) (w : Width) : s.peek a w = BitVec.ofNat 32 (s.value a w) := by
  simp only [State.peek, State.value, memValue_eq]

@[simp] theorem State.peek_toNat (s : State) (a : Word) (w : Width) : (s.peek a w).toNat = s.value a w := by
  have := s.value_lt a w
  rw [State.peek_eq, BitVec.toNat_ofNat, Nat.mod_eq_of_lt]
  exact this.trans_le (Nat.pow_le_pow_right (by norm_num) (by cases w <;> decide))

/-- An aligned access stays inside the address space. -/
theorem aligned_inside {a : Word} {w : Width} (h : a.toNat % w.bytes = 0) : a.toNat + w.bytes ≤ 2 ^ 32 := by
  have := a.isLt
  cases w <;> simp only [Width.bytes] at h ⊢ <;> omega

/-- A value stored reads back as its low part (rules R52, R59). -/
theorem State.value_poke {s : State} (h : s.mem.wf = true) {a : Word} {w : Width} (ha : a.toNat % w.bytes = 0)
    (v : Word) : (s.poke a w v).value a w = v.toNat % 2 ^ (8 * w.bytes) := by
  have hl : (splitBytes s.endian w.bytes v.toNat).length = w.bytes := splitBytes_length _ _ _
  have hr := Memory.readBytes_writeBytes h (a := a) (bs := splitBytes s.endian w.bytes v.toNat)
    (by rw [hl]; exact aligned_inside ha)
  rw [hl] at hr
  rw [State.value, memValue_eq, State.poke_mem, State.poke_endian, hr, joinBytes_splitBytes, Nat.pow_mul]

/-- A store leaves every other byte as it was. -/
theorem State.read_poke_other {s : State} (h : s.mem.wf = true) {a : Word} {w : Width} (ha : a.toNat % w.bytes = 0)
    (v : Word) {x : Nat} (hx : ¬ bytesAt a w.bytes x) : (s.poke a w v).mem.read x = s.mem.read x := by
  refine Memory.read_writeBytes_other h ?_ ?_ <;> rw [splitBytes_length]
  · exact aligned_inside ha
  · exact hx

/-- A value depends on its own bytes only. -/
theorem memValue_congr {e : Endian} {m k : Memory} {a : Word} {w : Width} (ha : a.toNat % w.bytes = 0)
    (h : ∀ x, bytesAt a w.bytes x → k.read x = m.read x) : memValue e k a w = memValue e m a w := by
  have hi := aligned_inside ha
  have h0 := h a.toNat
  have h1 := h (a + 1).toNat
  have h2 := h (a + 2).toNat
  have h3 := h (a + 3).toNat
  simp only [bytesAt] at h0 h1 h2 h3
  cases w <;> cases e <;> simp only [memValue, Width.bytes] at hi h0 h1 h2 h3 ⊢ <;>
    first
      | rw [h0 (by omega), h1 (by bv_omega), h2 (by bv_omega), h3 (by bv_omega)]
      | rw [h0 (by omega), h1 (by bv_omega)]
      | rw [h0 (by omega)]

end Sys2Proof.Machine
end

