-- ==== Sys2Proof/Laws/Registers.lean ====
section
/-! SUPPORT. The register file: reading after writing, which names are the same register, and several writes in a row
(rules R21 to R24, R240). -/

namespace Sys2Proof.Machine

/-! ### One write -/

theorem RegFile.get_set (f : RegFile) (p q : PReg) (v : Word) :
    (f.set p v).get q = if q = p then v else f.get q := by
  cases p <;> cases q <;> rfl

@[simp] theorem RegFile.get_set_same (f : RegFile) (p : PReg) (v : Word) : (f.set p v).get p = v := by
  rw [RegFile.get_set, if_pos rfl]

theorem RegFile.get_set_other (f : RegFile) {p q : PReg} (v : Word) (h : q ≠ p) : (f.set p v).get q = f.get q := by
  rw [RegFile.get_set, if_neg h]

/-- Two register files that read alike are the same. -/
theorem RegFile.ext_get {f g : RegFile} (h : ∀ p, f.get p = g.get p) : f = g := by
  cases f; cases g
  simp only [RegFile.mk.injEq]
  exact ⟨h .r0, h .r1, h .r2, h .r3, h .r4, h .r5, h .r6, h .r7, h .r8, h .r9, h .r10, h .r11, h .r12, h .r8Fiq,
    h .r9Fiq, h .r10Fiq, h .r11Fiq, h .r12Fiq, h .r13Usr, h .r14Usr, h .r13Fiq, h .r14Fiq, h .r13Irq, h .r14Irq,
    h .r13Svc, h .r14Svc, h .r13Abt, h .r14Abt, h .r13Und, h .r14Und⟩

/-! ### Names -/

@[simp] theorem loPReg_inj (r q : LoReg) : loPReg r = loPReg q ↔ r = q := by
  cases r <;> cases q <;> decide

@[simp] theorem loPReg_ne_sp (r : LoReg) (m : Mode) : loPReg r ≠ spPReg m := by
  cases r <;> cases m <;> decide

@[simp] theorem sp_ne_loPReg (r : LoReg) (m : Mode) : spPReg m ≠ loPReg r := by
  cases r <;> cases m <;> decide

@[simp] theorem loPReg_ne_lr (r : LoReg) (m : Mode) : loPReg r ≠ lrPReg m := by
  cases r <;> cases m <;> decide

@[simp] theorem lr_ne_loPReg (r : LoReg) (m : Mode) : lrPReg m ≠ loPReg r := by
  cases r <;> cases m <;> decide

@[simp] theorem sp_ne_lr (m k : Mode) : spPReg m ≠ lrPReg k := by
  cases m <;> cases k <;> decide

@[simp] theorem lr_ne_sp (m k : Mode) : lrPReg m ≠ spPReg k := by
  cases m <;> cases k <;> decide

/-- No Hi register is a Lo register. -/
theorem hiPReg_ne_lo {m : Mode} {h : HiReg} {p : PReg} (hp : hiPReg m h = some p) (r : LoReg) : loPReg r ≠ p := by
  cases h <;> cases m <;> simp only [hiPReg, Option.some.injEq, reduceCtorEq] at hp <;> subst hp <;>
    cases r <;> decide

/-- Only R15 is no register of the file (rule R22). -/
theorem hiPReg_none {m : Mode} {h : HiReg} : hiPReg m h = none ↔ h = .r15 := by
  cases h <;> simp [hiPReg]

/-! ### Reading by name after an update -/

theorem State.lo_setLo (s : State) (r q : LoReg) (v : Word) : (s.setLo r v).lo q = if q = r then v else s.lo q := by
  simp only [State.lo, State.setLo_regs, RegFile.get_set, loPReg_inj]

@[simp] theorem State.lo_setPc (s : State) (a : Word) (q : LoReg) : (s.setPc a).lo q = s.lo q := rfl

@[simp] theorem State.lo_setCpsr (s : State) (p : Psr) (q : LoReg) : (s.setCpsr p).lo q = s.lo q := rfl

@[simp] theorem State.lo_setMem (s : State) (m : Memory) (q : LoReg) : (s.setMem m).lo q = s.lo q := rfl

@[simp] theorem State.lo_poke (s : State) (a : Word) (w : Width) (v : Word) (q : LoReg) :
    (s.poke a w v).lo q = s.lo q := rfl

@[simp] theorem State.sp_setLo (s : State) (r : LoReg) (v : Word) : (s.setLo r v).sp = s.sp := by
  simp only [State.sp, State.setLo_regs, State.setLo_cpsr]
  exact RegFile.get_set_other _ _ (sp_ne_loPReg _ _)

@[simp] theorem State.sp_setSp (s : State) (v : Word) : (s.setSp v).sp = v := by
  simp only [State.sp, State.setSp_regs, State.setSp_cpsr, RegFile.get_set_same]

@[simp] theorem State.lr_setLr (s : State) (v : Word) : (s.setLr v).lr = v := by
  simp only [State.lr, State.setLr_regs, State.setLr_cpsr, RegFile.get_set_same]

theorem State.hi_of_some {s : State} {h : HiReg} {p : PReg} (hp : hiPReg s.cpsr.mode h = some p) :
    s.hi h = s.regs.get p := by
  simp only [State.hi, hp]

@[simp] theorem State.hi_r15 (s : State) : s.hi .r15 = s.pc + 4 := rfl

/-! ### Several writes -/

theorem State.setLos_regs_get (s : State) (l : List (LoReg × Word)) (p : PReg)
    (h : ∀ e ∈ l, p ≠ loPReg e.1) : (s.setLos l).regs.get p = s.regs.get p := by
  induction l generalizing s with
  | nil => rfl
  | cons e rest ih =>
    obtain ⟨r, v⟩ := e
    simp only [State.setLos]
    rw [ih _ (fun e he => h e (List.mem_cons_of_mem _ he)), State.setLo_regs]
    exact RegFile.get_set_other _ _ (h (r, v) List.mem_cons_self)

/-- Several writes change the registers only. -/
theorem State.setLos_eq (s : State) (l : List (LoReg × Word)) :
    s.setLos l = { s with regs := (s.setLos l).regs } := by
  induction l generalizing s with
  | nil => rfl
  | cons e rest ih =>
    obtain ⟨r, v⟩ := e
    simp only [State.setLos]
    rw [ih (s.setLo r v)]
    rfl

@[simp] theorem State.setLos_pc (s : State) (l : List (LoReg × Word)) : (s.setLos l).pc = s.pc := by
  rw [State.setLos_eq]

@[simp] theorem State.setLos_cpsr (s : State) (l : List (LoReg × Word)) : (s.setLos l).cpsr = s.cpsr := by
  rw [State.setLos_eq]

@[simp] theorem State.setLos_spsr (s : State) (l : List (LoReg × Word)) : (s.setLos l).spsr = s.spsr := by
  rw [State.setLos_eq]

@[simp] theorem State.setLos_mem (s : State) (l : List (LoReg × Word)) : (s.setLos l).mem = s.mem := by
  rw [State.setLos_eq]

@[simp] theorem State.setLos_endian (s : State) (l : List (LoReg × Word)) : (s.setLos l).endian = s.endian := by
  rw [State.setLos_eq]

@[simp] theorem State.setLos_memAdmit (s : State) (l : List (LoReg × Word)) : (s.setLos l).memAdmit = s.memAdmit := by
  rw [State.setLos_eq]

@[simp] theorem State.setLos_codeRange (s : State) (l : List (LoReg × Word)) :
    (s.setLos l).codeRange = s.codeRange := by
  rw [State.setLos_eq]

@[simp] theorem State.setLos_draws (s : State) (l : List (LoReg × Word)) : (s.setLos l).draws = s.draws := by
  rw [State.setLos_eq]

@[simp] theorem State.setLos_lastExit (s : State) (l : List (LoReg × Word)) :
    (s.setLos l).lastExit = s.lastExit := by
  rw [State.setLos_eq]

theorem State.setLos_setPc (s : State) (l : List (LoReg × Word)) (a : Word) :
    (s.setPc a).setLos l = (s.setLos l).setPc a := by
  induction l generalizing s with
  | nil => rfl
  | cons e rest ih => exact ih (s.setLo e.1 e.2)

/-- After several writes to different registers each one holds its own value. -/
theorem State.setLos_lo (s : State) (l : List (LoReg × Word)) (hn : (l.map Prod.fst).Nodup) {r : LoReg} {v : Word}
    (hm : (r, v) ∈ l) : (s.setLos l).lo r = v := by
  induction l generalizing s with
  | nil => simp at hm
  | cons e rest ih =>
    obtain ⟨q, u⟩ := e
    simp only [List.map_cons, List.nodup_cons, List.mem_map, not_exists, not_and] at hn
    simp only [State.setLos]
    rcases List.mem_cons.1 hm with h | h
    · obtain ⟨rfl, rfl⟩ := Prod.mk.inj h
      have := State.setLos_regs_get (s.setLo r v) rest (loPReg r)
        (fun e he h' => hn.1 e he ((loPReg_inj _ _).1 h').symm)
      simp only [State.lo, this, State.setLo_regs, RegFile.get_set_same]
    · exact ih _ hn.2 h

end Sys2Proof.Machine
end

