-- ==== Sys2Proof/Laws/Ops.lean ====
section
/-! SUPPORT. What each shared operation can do, said once: the end of an instruction, the checked accesses, loads and
stores, multi-register transfers (rules R25, R28, R53 to R56, R66, R240). -/

namespace Sys2Proof.Machine

/-! ### The end of an instruction -/

theorem State.advance_next {s : State} (h : s.pc.toNat + 2 < 2 ^ 32) : s.advance = .next (s.setPc (s.pc + 2)) := by
  rw [State.advance, if_neg (by omega)]

theorem State.advance_wrap {s : State} (h : 2 ^ 32 ≤ s.pc.toNat + 2) :
    s.advance = .fault (.unpredictable (.pcWrap s) s.pc) := by
  rw [State.advance, if_pos h]

theorem State.advance_cases {s t : State} (h : s.advance = .next t) :
    s.pc.toNat + 2 < 2 ^ 32 ∧ t = s.setPc (s.pc + 2) := by
  unfold State.advance at h
  split at h
  · cases h
  · exact ⟨by omega, (Host.Outcome.next.inj h).symm⟩

/-- Masking the low bits of a word rounds it down. -/
theorem and_highMask (v : Word) (k : Nat) : v &&& (0xFFFFFFFF#32 <<< k) = BitVec.ofNat 32 (v.toNat / 2 ^ k * 2 ^ k) := by
  have h : v &&& (0xFFFFFFFF#32 <<< k) = (v >>> k) <<< k := by
    apply BitVec.eq_of_getLsbD_eq
    intro i hi
    have h1 : ∀ j, j < 32 → (0xFFFFFFFF#32).getLsbD j = true := by decide
    simp only [BitVec.getLsbD_and, BitVec.getLsbD_shiftLeft, BitVec.getLsbD_ushiftRight]
    by_cases hk : i < k
    · simp [hk]
    · simp only [hk, hi, decide_false, decide_true, Bool.not_false, Bool.true_and, h1 (i - k) (by omega), Bool.and_true]
      rw [show k + (i - k) = i by omega]
  rw [h]
  apply BitVec.eq_of_toNat_eq
  rw [BitVec.toNat_shiftLeft, BitVec.toNat_ushiftRight, BitVec.toNat_ofNat, Nat.shiftLeft_eq, Nat.shiftRight_eq_div_pow]

theorem and_even (v : Word) : v &&& 0xFFFFFFFE = dropBit0 v :=
  and_highMask v 1

theorem dropBit0_toNat (v : Word) : (dropBit0 v).toNat = v.toNat / 2 * 2 := by
  have := v.isLt
  rw [dropBit0, BitVec.toNat_ofNat, Nat.mod_eq_of_lt (by omega)]

/-- A conditional branch goes to its target or on to the next halfword (rule R260). -/
theorem State.branchIf_cases {s t : State} {k : Cond} {o : Word} (h : s.branchIf k o = .next t) :
    (k.holds s.cpsr = true ∧ t = s.setPc (s.pc + 4 + o)) ∨
      (k.holds s.cpsr = false ∧ s.pc.toNat + 2 < 2 ^ 32 ∧ t = s.setPc (s.pc + 2)) := by
  unfold State.branchIf at h
  split at h
  · exact .inl ⟨‹_›, (Host.Outcome.next.inj h).symm⟩
  · exact .inr ⟨Bool.eq_false_iff.2 ‹_›, State.advance_cases h⟩

/-- A write of a Hi register writes it and goes on, or branches (rules R172, R174, R177). -/
theorem State.finishHi_cases {s t : State} {hd : HiReg} {v : Word} (h : s.finishHi hd v = .next t) :
    (∃ p, hiPReg s.cpsr.mode hd = some p ∧ s.pc.toNat + 2 < 2 ^ 32 ∧ t = (s.setReg p v).setPc (s.pc + 2)) ∨
      (hd = .r15 ∧ t = s.setPc (dropBit0 v)) := by
  unfold State.finishHi at h
  split at h
  · obtain ⟨h1, h2⟩ := State.advance_cases h
    exact .inl ⟨_, ‹_›, h1, h2⟩
  · refine .inr ⟨hiPReg_none.1 ‹_›, ?_⟩
    rw [← Host.Outcome.next.inj h, State.branchTo, and_even]

/-! ### Single accesses -/

theorem aligned_iff {a : Word} {w : Width} : aligned a w = true ↔ a.toNat % w.bytes = 0 := by
  simp only [aligned, beq_iff_eq]

theorem State.memRead_ok {s : State} {a : Word} {w : Width} (h : s.Readable a w) : s.memRead a w = .ok (s.peek a w) := by
  rw [State.memRead, if_neg (by simp [aligned_iff.2 h.aligned]), if_neg (by simp [h.admitted])]

theorem State.memRead_cases {s : State} {a : Word} {w : Width} {v : Word} (h : s.memRead a w = .ok v) :
    s.Readable a w ∧ v = s.peek a w := by
  unfold State.memRead at h
  split at h
  · cases h
  · split at h
    · cases h
    · rename_i h1 h2
      simp only [Bool.not_eq_true, Bool.not_eq_false'] at h1 h2
      exact ⟨⟨aligned_iff.1 h1, h2⟩, (Except.ok.inj h).symm⟩

theorem State.memWrite_ok {s : State} {a : Word} {w : Width} (h : s.Writable a w) (v : Word) :
    s.memWrite a w v = .ok (s.poke a w v) := by
  rw [State.memWrite, if_neg (by simp [aligned_iff.2 h.aligned]), if_neg (by simp [h.notCode]),
    if_neg (by simp [h.admitted])]

theorem State.memWrite_cases {s t : State} {a : Word} {w : Width} {v : Word} (h : s.memWrite a w v = .ok t) :
    s.Writable a w ∧ t = s.poke a w v := by
  unfold State.memWrite at h
  split at h
  · cases h
  · split at h
    · cases h
    · split at h
      · cases h
      · rename_i h1 h2 h3
        simp only [Bool.not_eq_true, Bool.not_eq_false'] at h1 h2 h3
        exact ⟨⟨aligned_iff.1 h1, h2, h3⟩, (Except.ok.inj h).symm⟩

theorem State.memRead_unaligned {s : State} {a : Word} {w : Width} (h : a.toNat % w.bytes ≠ 0) :
    s.memRead a w = .error (.alignmentFault a w s.pc) := by
  rw [State.memRead, if_pos]
  simpa [Bool.eq_false_iff, aligned_iff] using h

theorem State.memRead_refused {s : State} {a : Word} {w : Width} (h : a.toNat % w.bytes = 0)
    (h2 : s.admits a w .read = false) : s.memRead a w = .error (.dataAbort a w .read s.pc) := by
  rw [State.memRead, if_neg (by simp [aligned_iff.2 h]), if_pos (by simp [h2])]

theorem State.memWrite_unaligned {s : State} {a : Word} {w : Width} (v : Word) (h : a.toNat % w.bytes ≠ 0) :
    s.memWrite a w v = .error (.alignmentFault a w s.pc) := by
  rw [State.memWrite, if_pos]
  simpa [Bool.eq_false_iff, aligned_iff] using h

theorem State.memWrite_code {s : State} {a : Word} {w : Width} (v : Word) (h : a.toNat % w.bytes = 0)
    (h2 : s.touchesCode a w = true) : s.memWrite a w v = .error (.unpredictable .storeToCode s.pc) := by
  rw [State.memWrite, if_neg (by simp [aligned_iff.2 h]), if_pos h2]

theorem State.memWrite_refused {s : State} {a : Word} {w : Width} (v : Word) (h : a.toNat % w.bytes = 0)
    (h2 : s.touchesCode a w = false) (h3 : s.admits a w .write = false) :
    s.memWrite a w v = .error (.dataAbort a w .write s.pc) := by
  rw [State.memWrite, if_neg (by simp [aligned_iff.2 h]), if_neg (by simp [h2]), if_pos (by simp [h3])]

/-! ### Loads and stores of one register -/

theorem State.load_next {s : State} {rd : LoReg} {a : Word} {w : Width} {ext : Word → Word} (h : s.Readable a w)
    (hp : s.pc.toNat + 2 < 2 ^ 32) :
    s.load rd a w ext = .next ((s.setLo rd (ext (s.peek a w))).setPc (s.pc + 2)) := by
  rw [State.load, State.memRead_ok h]
  exact State.advance_next (s := s.setLo rd _) hp

theorem State.load_cases {s t : State} {rd : LoReg} {a : Word} {w : Width} {ext : Word → Word}
    (h : s.load rd a w ext = .next t) :
    s.Readable a w ∧ s.pc.toNat + 2 < 2 ^ 32 ∧ t = (s.setLo rd (ext (s.peek a w))).setPc (s.pc + 2) := by
  unfold State.load at h
  split at h
  · cases h
  · obtain ⟨h1, rfl⟩ := State.memRead_cases ‹_›
    obtain ⟨h2, h3⟩ := State.advance_cases h
    exact ⟨h1, h2, h3⟩

theorem State.load_stops (s : State) (rd : LoReg) (a : Word) (w : Width) (ext : Word → Word) :
    LoadStops s a w (s.load rd a w ext) where
  unaligned h := by rw [State.load, State.memRead_unaligned h]
  refused h h2 := by rw [State.load, State.memRead_refused h h2]

theorem State.store_next {s : State} {a : Word} {w : Width} {v : Word} (h : s.Writable a w)
    (hp : s.pc.toNat + 2 < 2 ^ 32) : s.store a w v = .next ((s.poke a w v).setPc (s.pc + 2)) := by
  rw [State.store, State.memWrite_ok h]
  exact State.advance_next (s := s.poke a w v) hp

theorem State.store_cases {s t : State} {a : Word} {w : Width} {v : Word} (h : s.store a w v = .next t) :
    s.Writable a w ∧ s.pc.toNat + 2 < 2 ^ 32 ∧ t = (s.poke a w v).setPc (s.pc + 2) := by
  unfold State.store at h
  split at h
  · cases h
  · obtain ⟨h1, rfl⟩ := State.memWrite_cases ‹_›
    obtain ⟨h2, h3⟩ := State.advance_cases h
    exact ⟨h1, h2, h3⟩

theorem State.store_stops (s : State) (a : Word) (w : Width) (v : Word) : StoreStops s a w (s.store a w v) where
  unaligned h := by rw [State.store, State.memWrite_unaligned v h]
  code h h2 := by rw [State.store, State.memWrite_code v h h2]
  refused h h2 h3 := by rw [State.store, State.memWrite_refused v h h2 h3]

/-- A completed store, by the bytes at its address (rules R190, R52). -/
theorem State.storesOnly_poke {s : State} (hm : s.mem.wf = true) {a : Word} {w : Width} (v : Word)
    (ha : a.toNat % w.bytes = 0) : StoresOnly s ((s.poke a w v).setPc (s.pc + 2)) a w v where
  value := State.value_poke hm ha v
  cpsr := rfl
  pc := rfl
  frame := ⟨fun _ _ => rfl, fun _ hx => State.read_poke_other hm ha v hx, rfl, rfl, rfl, rfl, rfl⟩

/-- A register write that goes on. -/
theorem State.writesOnly_setReg (s : State) (p : PReg) (v : Word) :
    WritesOnly s ((s.setReg p v).setPc (s.pc + 2)) p v where
  value := RegFile.get_set_same _ _ _
  cpsr := rfl
  rest := ⟨rfl, fun q hq => RegFile.get_set_other _ _ (by simpa using hq), fun _ _ => rfl, rfl, rfl, rfl, rfl, rfl⟩

theorem State.jumpsOnly_setPc (s : State) (a : Word) : JumpsOnly s (s.setPc a) a where
  pc := rfl
  cpsr := rfl
  frame := ⟨fun _ _ => rfl, fun _ _ => rfl, rfl, rfl, rfl, rfl, rfl⟩

/-! ### Instructions that only work on registers -/

/-- A Lo register and the status register written, then on to the next halfword. -/
theorem State.next_of_setLo_setCpsr {s : State} (hp : s.pc.toNat + 2 < 2 ^ 32) (r : LoReg) (v : Word) (p : Psr) :
    ∃ t, ((s.setLo r v).setCpsr p).advance = .next t ∧ FallsThrough s t [loPReg r] ∧ t.lo r = v ∧ t.cpsr = p :=
  ⟨_, State.advance_next (s := (s.setLo r v).setCpsr p) hp,
    ⟨rfl, fun _ hq => RegFile.get_set_other _ _ (by simpa using hq), fun _ _ => rfl, rfl, rfl, rfl, rfl, rfl⟩,
    RegFile.get_set_same _ _ _, rfl⟩

/-- The status register written, then on to the next halfword. -/
theorem State.next_of_setCpsr {s : State} (hp : s.pc.toNat + 2 < 2 ^ 32) (p : Psr) :
    ∃ t, (s.setCpsr p).advance = .next t ∧ FallsThrough s t [] ∧ t.cpsr = p :=
  ⟨_, State.advance_next (s := s.setCpsr p) hp, ⟨rfl, fun _ _ => rfl, fun _ _ => rfl, rfl, rfl, rfl, rfl, rfl⟩, rfl⟩

/-- A register written, then on to the next halfword. -/
theorem State.next_of_setReg {s : State} (hp : s.pc.toNat + 2 < 2 ^ 32) (p : PReg) (v : Word) :
    ∃ t, (s.setReg p v).advance = .next t ∧ WritesOnly s t p v :=
  ⟨_, State.advance_next (s := s.setReg p v) hp, State.writesOnly_setReg s p v⟩

/-- A write of a Hi register other than R15 writes it and goes on. -/
theorem State.finishHi_next {s : State} (hp : s.pc.toNat + 2 < 2 ^ 32) {hd : HiReg} {p : PReg}
    (h : hiPReg s.cpsr.mode hd = some p) (v : Word) : ∃ t, s.finishHi hd v = .next t ∧ WritesOnly s t p v := by
  obtain ⟨t, ht, hw⟩ := State.next_of_setReg hp p v
  exact ⟨t, by rw [State.finishHi, h]; exact ht, hw⟩

/-- A write of R15 branches to the value with bit 0 dropped (rule R177). -/
theorem State.finishHi_r15 (s : State) (v : Word) : ∃ t, s.finishHi .r15 v = .next t ∧ JumpsOnly s t (dropBit0 v) :=
  ⟨s.setPc (dropBit0 v), by rw [← and_even]; rfl, State.jumpsOnly_setPc s _⟩

/-! ### The top of the address space -/

/-- A register written there is in the state the stop carries (rules R28, R304). -/
theorem State.wraps_setReg {s : State} (hp : 2 ^ 32 ≤ s.pc.toNat + 2) (p : PReg) (v : Word) :
    WrapsWriting s p v (s.setReg p v).advance :=
  ⟨s.setReg p v, State.advance_wrap (s := s.setReg p v) hp, RegFile.get_set_same _ _ _, rfl, rfl,
    fun _ hq => RegFile.get_set_other _ _ (by simpa using hq), fun _ _ => rfl, rfl, rfl, rfl, rfl, rfl⟩

/-- A Hi register other than R15 written there is in the state the stop carries. -/
theorem State.wraps_finishHi {s : State} (hp : 2 ^ 32 ≤ s.pc.toNat + 2) {hd : HiReg} {p : PReg}
    (h : hiPReg s.cpsr.mode hd = some p) (v : Word) : WrapsWriting s p v (s.finishHi hd v) := by
  rw [State.finishHi, h]
  exact State.wraps_setReg hp p v

/-- What goes on from one address stops at the top of the address space, with the same writes made (rule R28). -/
theorem State.wraps_of_next {s x y u : State} (hp : 2 ^ 32 ≤ s.pc.toNat + 2) (hx : x.pc = s.pc)
    (h : y.advance = .next u) (hy : y.setPc s.pc = x) :
    x.advance = .fault (.unpredictable (.pcWrap (u.setPc s.pc)) s.pc) := by
  obtain ⟨_, rfl⟩ := State.advance_cases h
  rw [State.advance_wrap (by rw [hx]; exact hp), hx, ← hy]
  rfl

/-! ### Word slots -/

theorem slot_zero (a : Word) : slot a 0 = a := by
  simp [slot]

theorem slot_succ (a : Word) (k : Nat) : slot (a + 4) k = slot a (k + 1) := by
  simp only [slot, Nat.mul_add, BitVec.ofNat_add, BitVec.add_assoc]
  congr 1
  exact BitVec.add_comm _ _

theorem slot_toNat (a : Word) (k : Nat) : (slot a k).toNat = (a.toNat + 4 * k) % 2 ^ 32 := by
  rw [slot, BitVec.toNat_add, BitVec.toNat_ofNat, Nat.add_mod_mod]

theorem wordBytes_eq (n : Nat) : wordBytes n = BitVec.ofNat 32 (4 * n) := by
  rw [BitVec.ofNat_mul]
  rfl

theorem slot_aligned {a : Word} (h : a.toNat % 4 = 0) (k : Nat) : (slot a k).toNat % 4 = 0 := by
  rw [slot_toNat]; omega

/-- Different slots of an aligned transfer share no byte. -/
theorem slot_disjoint {a : Word} (h : a.toNat % 4 = 0) {j k : Nat} (hj : j < 2 ^ 30) (hk : k < 2 ^ 30) (hjk : j ≠ k)
    {x : Nat} (hx : bytesAt (slot a j) 4 x) : ¬ bytesAt (slot a k) 4 x := by
  have h1 := slot_aligned h j
  have h2 := slot_aligned h k
  simp only [bytesAt, slot_toNat] at *
  omega

/-! ### Multi-register transfers -/

@[simp] theorem State.admits_setMem (s : State) (m : Memory) (a : Word) (w : Width) (k : AccessKind) :
    (s.setMem m).admits a w k = s.admits a w k := rfl

@[simp] theorem State.touchesCode_setMem (s : State) (m : Memory) (a : Word) (w : Width) :
    (s.setMem m).touchesCode a w = s.touchesCode a w := rfl

theorem State.Writable.setMem {s : State} {a : Word} {w : Width} (h : s.Writable a w) (m : Memory) :
    (s.setMem m).Writable a w :=
  ⟨h.aligned, h.notCode, h.admitted⟩

/-- Words written by completed accesses: only memory changes, inside the words, and each word holds its value (rules R56,
R240). -/
theorem State.storeWords_ok {s : State} {a : Word} {vs : List Word} (hm : s.mem.wf = true) (hn : vs.length < 2 ^ 30)
    (hw : ∀ k, k < vs.length → s.Writable (slot a k) .word) :
    ∃ m, s.storeWords a vs = .ok (s.setMem m) ∧ m.wf = true ∧
      (∀ x, ¬ wordsAt a vs.length x → m.read x = s.mem.read x) ∧
      (∀ k v, vs[k]? = some v → memValue s.endian m (slot a k) .word = v.toNat) := by
  induction vs generalizing s a with
  | nil => exact ⟨s.mem, rfl, hm, fun _ _ => rfl, fun k v h => by simp at h⟩
  | cons v vs ih =>
    simp only [List.length_cons] at hn hw
    have h0 := hw 0 (Nat.succ_pos _)
    rw [slot_zero] at h0
    have ha : a.toNat % 4 = 0 := h0.aligned
    obtain ⟨m, h1, h2, h3, h4⟩ := ih (s := s.poke a .word v) (a := a + 4) (State.poke_wf hm a .word v) (by omega)
      (fun k hk => by rw [slot_succ]; exact (hw (k + 1) (by omega)).setMem _)
    have hv := State.value_poke hm (w := .word) ha v
    simp only [State.value, State.poke_endian, State.poke_mem, Width.bytes] at hv
    refine ⟨m, ?_, h2, fun x hx => ?_, fun k u hk => ?_⟩
    · simp only [State.storeWords, State.memWrite_ok h0, h1]
      rfl
    · rw [h3 x, State.read_poke_other hm (w := .word) ha v]
      · exact fun h => hx ⟨0, by simp, by rw [slot_zero]; exact h⟩
      · rintro ⟨k, hk, hb⟩
        rw [slot_succ] at hb
        exact hx ⟨k + 1, by simpa using hk, hb⟩
    · cases k with
      | zero =>
        simp only [List.getElem?_cons_zero, Option.some.injEq] at hk
        subst hk
        rw [slot_zero, memValue_congr (m := (s.poke a .word v).mem) (w := .word) ha, State.poke_mem]
        · exact hv.trans (Nat.mod_eq_of_lt v.isLt)
        · intro x hx
          refine h3 x ?_
          rintro ⟨k, hk, hb⟩
          rw [slot_succ] at hb
          have hz : bytesAt (slot a 0) 4 x := by rw [slot_zero]; exact hx
          exact slot_disjoint ha (by omega) (by omega) (by omega) hz hb
      | succ k =>
        rw [List.getElem?_cons_succ] at hk
        rw [← slot_succ]
        exact h4 k u hk

/-- Words written without a stop change memory only, and keep its canonical form. -/
theorem State.storeWords_cases {s t : State} {a : Word} {vs : List Word} (h : s.storeWords a vs = .ok t) :
    t = s.setMem t.mem ∧ (s.mem.wf = true → t.mem.wf = true) ∧ ∀ k, k < vs.length → s.Writable (slot a k) .word := by
  induction vs generalizing s a with
  | nil =>
    rw [State.storeWords] at h
    cases h
    exact ⟨rfl, id, fun k hk => by simp at hk⟩
  | cons v vs ih =>
    simp only [State.storeWords] at h
    split at h
    · cases h
    · obtain ⟨h1, rfl⟩ := State.memWrite_cases ‹_›
      obtain ⟨h2, h3, h4⟩ := ih h
      refine ⟨h2.trans rfl, fun hm => h3 (State.poke_wf hm _ _ _), fun k hk => ?_⟩
      cases k with
      | zero => rwa [slot_zero]
      | succ k =>
        have := h4 k (by simpa using hk)
        rw [slot_succ] at this
        exact ⟨this.aligned, this.notCode, this.admitted⟩

/-- The first word access that stops decides how the transfer stops. -/
theorem State.storeWords_first {s : State} {a : Word} {vs : List Word} {k : Nat} {f : Fault} (hk : k < vs.length)
    (hw : ∀ j, j < k → s.Writable (slot a j) .word)
    (hf : ∀ m v, (s.setMem m).memWrite (slot a k) .word v = .error f) : s.storeWords a vs = .error f := by
  induction vs generalizing s a k with
  | nil => simp at hk
  | cons v vs ih =>
    cases k with
    | zero =>
      have := hf s.mem v
      rw [slot_zero] at this
      rw [State.storeWords]
      rw [show s.setMem s.mem = s from rfl] at this
      rw [this]
    | succ k =>
      have h0 := hw 0 (Nat.succ_pos _)
      rw [slot_zero] at h0
      rw [State.storeWords, State.memWrite_ok h0]
      refine ih (k := k) (by simpa using hk) (fun j hj => ?_) (fun m u => ?_)
      · rw [slot_succ]; exact (hw (j + 1) (by omega)).setMem _
      · rw [slot_succ]; exact hf m u

theorem State.storeWords_stops {s : State} {a : Word} {vs : List Word} {k : Nat} (hk : k < vs.length)
    (hw : ∀ j, j < k → s.Writable (slot a j) .word) {r : Result}
    (hr : ∀ f, s.storeWords a vs = .error f → r = .fault f) : StoreStops s (slot a k) .word r where
  unaligned h := hr _ (State.storeWords_first hk hw (fun _ v => State.memWrite_unaligned v h))
  code h h2 := hr _ (State.storeWords_first hk hw (fun _ v => State.memWrite_code v h h2))
  refused h h2 h3 := hr _ (State.storeWords_first hk hw (fun _ v => State.memWrite_refused v h h2 h3))

/-- Words read by completed accesses (rules R56, R240). -/
theorem State.loadWords_ok {s : State} {a : Word} {n : Nat} (h : ∀ k, k < n → s.Readable (slot a k) .word) :
    s.loadWords a n = .ok ((List.range n).map (fun k => s.peek (slot a k) .word)) := by
  induction n generalizing a with
  | zero => rfl
  | succ n ih =>
    have h0 := h 0 (Nat.succ_pos _)
    rw [slot_zero] at h0
    rw [State.loadWords, State.memRead_ok h0, ih (fun k hk => by rw [slot_succ]; exact h (k + 1) (by omega))]
    simp only [List.range_succ_eq_map, List.map_cons, List.map_map, slot_zero, slot_succ]
    rfl

theorem State.loadWords_cases {s : State} {a : Word} {n : Nat} {vs : List Word} (h : s.loadWords a n = .ok vs) :
    (∀ k, k < n → s.Readable (slot a k) .word) ∧ vs = (List.range n).map (fun k => s.peek (slot a k) .word) := by
  suffices hs : ∀ k, k < n → s.Readable (slot a k) .word by
    refine ⟨hs, ?_⟩
    rw [State.loadWords_ok hs] at h
    exact (Except.ok.inj h).symm
  induction n generalizing a vs with
  | zero => intro k hk; omega
  | succ n ih =>
    simp only [State.loadWords] at h
    split at h
    · cases h
    · split at h
      · cases h
      · intro k hk
        cases k with
        | zero => rw [slot_zero]; exact (State.memRead_cases ‹_›).1
        | succ k => rw [← slot_succ]; exact ih ‹_› k (by omega)

theorem State.loadWords_first {s : State} {a : Word} {n k : Nat} {f : Fault} (hk : k < n)
    (hw : ∀ j, j < k → s.Readable (slot a j) .word) (hf : s.memRead (slot a k) .word = .error f) :
    s.loadWords a n = .error f := by
  induction n generalizing a k with
  | zero => omega
  | succ n ih =>
    cases k with
    | zero =>
      rw [slot_zero] at hf
      rw [State.loadWords, hf]
    | succ k =>
      have h0 := hw 0 (Nat.succ_pos _)
      rw [slot_zero] at h0
      rw [State.loadWords, State.memRead_ok h0, ih (k := k) (by omega)]
      · exact fun j hj => by rw [slot_succ]; exact hw (j + 1) (by omega)
      · rw [slot_succ]; exact hf

theorem State.loadWords_stops {s : State} {a : Word} {n k : Nat} (hk : k < n)
    (hw : ∀ j, j < k → s.Readable (slot a j) .word) {r : Result}
    (hr : ∀ f, s.loadWords a n = .error f → r = .fault f) : LoadStops s (slot a k) .word r where
  unaligned h := hr _ (State.loadWords_first hk hw (State.memRead_unaligned h))
  refused h h2 := hr _ (State.loadWords_first hk hw (State.memRead_refused h h2))

/-- Storing and loading words does not depend on the pc but in the faults. -/
theorem State.storeWords_setPc {s t : State} {a b : Word} {vs : List Word} (h : (s.setPc b).storeWords a vs = .ok t) :
    s.storeWords a vs = .ok (t.setPc s.pc) := by
  induction vs generalizing s a with
  | nil => cases h; rfl
  | cons v vs ih =>
    simp only [State.storeWords] at h ⊢
    split at h
    · cases h
    · obtain ⟨h1, rfl⟩ := State.memWrite_cases ‹_›
      rw [State.memWrite_ok (s := s) ⟨h1.aligned, h1.notCode, h1.admitted⟩]
      exact ih (s := s.poke a .word v) h

theorem State.loadWords_setPc {s : State} {a b : Word} {n : Nat} {vs : List Word}
    (h : (s.setPc b).loadWords a n = .ok vs) : s.loadWords a n = .ok vs := by
  obtain ⟨h1, rfl⟩ := State.loadWords_cases h
  exact State.loadWords_ok (fun k hk => ⟨(h1 k hk).aligned, (h1 k hk).admitted⟩)

/-- What a push leaves: the words in memory and SP at the lowest of them (rules R241, R242). -/
theorem State.pushWords_cases {s t : State} {vs : List Word} (h : s.pushWords vs = .next t) :
    s.pc.toNat + 2 < 2 ^ 32 ∧ (∀ k, k < vs.length → s.Writable (slot (s.pushStart vs.length) k) .word) ∧
      ∃ m, s.storeWords (s.pushStart vs.length) vs = .ok (s.setMem m) ∧ (s.mem.wf = true → m.wf = true) ∧
        t = ((s.setMem m).setSp (s.pushStart vs.length)).setPc (s.pc + 2) := by
  unfold State.pushWords at h
  split at h
  · cases h
  · rename_i u hu
    obtain ⟨h1, h2, h3⟩ := State.storeWords_cases hu
    obtain ⟨h4, h5⟩ := State.advance_cases h
    rw [h1] at h4 h5 hu
    exact ⟨h4, h3, _, hu, h2, h5⟩

theorem State.pushWords_stops {s : State} {vs : List Word} :
    StoreManyStops s (s.pushStart vs.length) vs.length (s.pushWords vs) :=
  fun _ hk hw => State.storeWords_stops hk hw (fun f hf => by rw [State.pushWords, hf])

/-- A push whose every access completes (rules R241, R242). -/
theorem State.pushWords_next {s : State} {vs : List Word} (hm : s.mem.wf = true) (hn : vs.length < 2 ^ 30)
    (hw : ∀ k, k < vs.length → s.Writable (slot (s.pushStart vs.length) k) .word) (hp : s.pc.toNat + 2 < 2 ^ 32) :
    ∃ t, s.pushWords vs = .next t ∧ t.sp = s.pushStart vs.length ∧ t.cpsr = s.cpsr ∧ t.pc = s.pc + 2 ∧
      Frame s t [spPReg s.cpsr.mode] (wordsAt (s.pushStart vs.length) vs.length) ∧
      ∀ k v, vs[k]? = some v → t.value (slot (s.pushStart vs.length) k) .word = v.toNat := by
  obtain ⟨m, h1, _, h3, h4⟩ := State.storeWords_ok hm hn hw
  refine ⟨((s.setMem m).setSp (s.pushStart vs.length)).setPc (s.pc + 2), ?_, ?_, rfl, rfl, ?_, h4⟩
  · rw [State.pushWords, h1]
    exact State.advance_next (s := (s.setMem m).setSp _) hp
  · exact State.sp_setSp (s.setMem m) _
  · exact ⟨fun _ hq => RegFile.get_set_other _ _ (by simpa using hq), h3, rfl, rfl, rfl, rfl, rfl⟩

/-! ### Register lists -/

theorem listRegs_nodup (rlist : BitVec 8) : (listRegs rlist).Nodup :=
  List.Nodup.filter _ (by decide)

theorem mem_listRegs {rlist : BitVec 8} {r : LoReg} : r ∈ listRegs rlist ↔ inList rlist r = true := by
  simp only [listRegs, List.mem_filter, and_iff_right_iff_imp]
  intro _
  cases r <;> decide

theorem listRegs_length_le (rlist : BitVec 8) : (listRegs rlist).length ≤ 8 :=
  (List.length_filter_le _ _).trans (by decide)

theorem listRegs_zip_mem {rlist : BitVec 8} {f : Nat → Word} {k : Nat} {r : LoReg}
    (h : (listRegs rlist)[k]? = some r) :
    (r, f k) ∈ (listRegs rlist).zip ((List.range (listRegs rlist).length).map f) := by
  have hk : k < (listRegs rlist).length := (List.getElem?_eq_some_iff.1 h).1
  refine List.mem_iff_getElem?.2 ⟨k, ?_⟩
  rw [List.getElem?_zip_eq_some]
  exact ⟨h, by simp [hk]⟩

theorem listRegs_zip_fst {rlist : BitVec 8} {vs : List Word} (h : vs.length = (listRegs rlist).length) :
    ((listRegs rlist).zip vs).map Prod.fst = listRegs rlist :=
  List.map_fst_zip (by omega)

end Sys2Proof.Machine
end

