-- ==== Sys2Proof/Laws/Operands.lean ====
section
/-! SUPPORT. Operands as numbers, and branch and exchange (rules R26, R101 to R108, R175, R200, R201, R306). -/

namespace Sys2Proof.Machine

/-! ### Offsets -/

/-- A sum of words is the sum of their numbers modulo 2^32 (rule R8). -/
theorem add_ofNat (a b : Word) : a + b = BitVec.ofNat 32 (a.toNat + b.toNat) := by
  apply BitVec.eq_of_toNat_eq
  rw [BitVec.toNat_add, BitVec.toNat_ofNat]

theorem field_lt {n : Nat} (k : BitVec n) (h : n ≤ 8) : k.toNat < 2 ^ 8 :=
  k.isLt.trans_le (Nat.pow_le_pow_right (by norm_num) h)

theorem zext32_toNat {n : Nat} (k : BitVec n) (h : n ≤ 11) : (zext32 k).toNat = k.toNat := by
  have : k.toNat < 2 ^ 11 := k.isLt.trans_le (Nat.pow_le_pow_right (by norm_num) h)
  rw [zext32, BitVec.toNat_setWidth, Nat.mod_eq_of_lt (by omega)]

theorem zext32_eq {n : Nat} (k : BitVec n) : zext32 k = BitVec.ofNat 32 k.toNat := by
  apply BitVec.eq_of_toNat_eq
  rw [zext32, BitVec.toNat_setWidth, BitVec.toNat_ofNat]

theorem wordOffset_toNat {n : Nat} (k : BitVec n) (h : n ≤ 8) : (wordOffset k).toNat = 4 * k.toNat := by
  have := field_lt k h
  rw [wordOffset, BitVec.toNat_shiftLeft, zext32_toNat k (by omega), Nat.shiftLeft_eq]
  omega

theorem halfOffset_toNat {n : Nat} (k : BitVec n) (h : n ≤ 8) : (halfOffset k).toNat = 2 * k.toNat := by
  have := field_lt k h
  rw [halfOffset, BitVec.toNat_shiftLeft, zext32_toNat k (by omega), Nat.shiftLeft_eq]
  omega

theorem byteOffset_toNat {n : Nat} (k : BitVec n) (h : n ≤ 8) : (byteOffset k).toNat = k.toNat :=
  zext32_toNat k (by omega)

theorem blLowOffset_toNat (k : BitVec 11) : (blLowOffset k).toNat = 2 * k.toNat := by
  have := k.isLt
  rw [blLowOffset, BitVec.toNat_shiftLeft, zext32_toNat k le_rfl, Nat.shiftLeft_eq]
  omega

/-- A left shift is a multiplication modulo 2^32, on signed numbers too. -/
theorem shiftLeft_ofInt (v : Word) (k : Nat) : v <<< k = BitVec.ofInt 32 (2 ^ k * v.toInt) := by
  rw [BitVec.shiftLeft_eq_mul_twoPow, BitVec.mul_comm, BitVec.ofInt_mul, BitVec.ofInt_toInt]
  congr 1
  apply BitVec.eq_of_toNat_eq
  rw [BitVec.toNat_twoPow, BitVec.toNat_ofInt]
  norm_cast

theorem signExtend_toInt {n : Nat} (k : BitVec n) (h : n ≤ 32) : (k.signExtend 32).toInt = k.toInt :=
  BitVec.toInt_signExtend_of_le h

theorem branchOffset_eq {n : Nat} (k : BitVec n) (h : n ≤ 32) : branchOffset k = BitVec.ofInt 32 (2 * k.toInt) := by
  rw [branchOffset, shiftLeft_ofInt, signExtend_toInt k h, pow_one]

theorem blHighOffset_eq (k : BitVec 11) : blHighOffset k = BitVec.ofInt 32 (4096 * k.toInt) := by
  rw [blHighOffset, shiftLeft_ofInt, signExtend_toInt k (by decide)]
  norm_num

/-- A word plus a signed number. -/
theorem add_ofInt (a : Word) (d : Int) : a + BitVec.ofInt 32 d = BitVec.ofInt 32 (a.toNat + d) := by
  rw [BitVec.ofInt_add]
  congr 1
  rw [BitVec.ofInt_natCast, BitVec.ofNat_toNat, BitVec.setWidth_eq]

theorem pcRead_eq (s : State) : s.pcRead = BitVec.ofNat 32 (s.pc.toNat + 4) :=
  add_ofNat _ _

/-- The PC of formats 6 and 12 (rules R26, R335). -/
theorem pcReadWord_eq (s : State) : s.pcReadWord = pcWordBase s.pc := by
  have h := and_highMask (s.pc + 4) 2
  have hp := s.pc.isLt
  have h4 : (4 : Word).toNat = 4 := rfl
  rw [show s.pcReadWord = _ from h, pcWordBase, BitVec.toNat_add, h4]
  apply BitVec.eq_of_toNat_eq
  rw [BitVec.toNat_ofNat, BitVec.toNat_ofNat]
  omega

/-! ### Bits of an address, and BX -/

theorem bit0_eq (v : Word) : v.getLsbD 0 = decide (v.toNat % 2 = 1) := by
  rw [BitVec.getLsbD, Nat.testBit_zero]

theorem bit1_eq (v : Word) : v.getLsbD 1 = decide (v.toNat / 2 % 2 = 1) := by
  rw [BitVec.getLsbD, Nat.testBit_succ, Nat.testBit_zero]

/-- BX to an odd value stays in THUMB state (rule R175). -/
theorem State.exchange_thumb {s : State} {v : Word} (h : v.toNat % 2 = 1) :
    s.exchange v = .next ((s.setCpsr { s.cpsr with t := true }).setPc (dropBit0 v)) := by
  rw [State.exchange, if_pos (by simp [bit0_eq, h]), and_even]

/-- BX to a multiple of 4 enters ARM state (rules R175, R306). -/
theorem State.exchange_arm {s : State} {v : Word} (h : v.toNat % 4 = 0) :
    s.exchange v = .next (((s.setCpsr { s.cpsr with t := false }).setPc v).setExit (.enterArmState v)) := by
  rw [State.exchange, if_neg, if_neg]
  · rw [bit1_eq, decide_eq_true_eq]; omega
  · rw [bit0_eq, decide_eq_true_eq]; omega

/-- BX to another even value stops (rule R175). -/
theorem State.exchange_stops {s : State} {v : Word} (h : v.toNat % 4 = 2) :
    s.exchange v = .fault (.unpredictable .bxArmTargetUnaligned s.pc) := by
  rw [State.exchange, if_neg, if_pos]
  · rw [bit1_eq, decide_eq_true_eq]; omega
  · rw [bit0_eq, decide_eq_true_eq]; omega

theorem State.exchange_cases {s t : State} {v : Word} (h : s.exchange v = .next t) :
    (v.toNat % 2 = 1 ∧ t = (s.setCpsr { s.cpsr with t := true }).setPc (dropBit0 v)) ∨
      (v.toNat % 4 = 0 ∧ t = ((s.setCpsr { s.cpsr with t := false }).setPc v).setExit (.enterArmState v)) := by
  rcases (by omega : v.toNat % 2 = 1 ∨ v.toNat % 4 = 0 ∨ v.toNat % 4 = 2) with h1 | h1 | h1
  · rw [State.exchange_thumb h1] at h
    exact .inl ⟨h1, (Host.Outcome.next.inj h).symm⟩
  · rw [State.exchange_arm h1] at h
    exact .inr ⟨h1, (Host.Outcome.next.inj h).symm⟩
  · rw [State.exchange_stops h1] at h
    cases h

/-! ### Extended loads -/

theorem sextByte_eq (v : Word) : sextByte v = BitVec.ofInt 32 (BitVec.ofNat 8 v.toNat).toInt :=
  rfl

theorem sextHalf_eq (v : Word) : sextHalf v = BitVec.ofInt 32 (BitVec.ofNat 16 v.toNat).toInt :=
  rfl

end Sys2Proof.Machine
end

