-- ==== Sys2Proof/Laws/PerInstr.lean ====
section
/-! SUPPORT. For every instruction: its word matches the mask and match value of its row of the opcode table (rule R110). -/

namespace Sys2Proof.Laws

/-- The word of an instruction lies in its row of the opcode table. -/
def RowMatch.Statement (i : Instr) : Prop :=
  encode i &&& i.tableRow.1 = i.tableRow.2

theorem RowMatch.lslImm (rd : LoReg) (rs : LoReg) (imm : BitVec 5) : RowMatch.Statement (.lslImm rd rs imm) := by
  show (0b000#3 ++ 0b00#2 ++ imm ++ rs.toBits ++ rd.toBits : BitVec 16) &&& ((BitVec.allOnes 3) ++ (BitVec.allOnes 2) ++ 0#5 ++ 0#3 ++ 0#3) = _
  simp only [BitVec.and_append, BitVec.and_zero, BitVec.and_allOnes]
  rfl

theorem RowMatch.lsrImm (rd : LoReg) (rs : LoReg) (imm : BitVec 5) : RowMatch.Statement (.lsrImm rd rs imm) := by
  show (0b000#3 ++ 0b01#2 ++ imm ++ rs.toBits ++ rd.toBits : BitVec 16) &&& ((BitVec.allOnes 3) ++ (BitVec.allOnes 2) ++ 0#5 ++ 0#3 ++ 0#3) = _
  simp only [BitVec.and_append, BitVec.and_zero, BitVec.and_allOnes]
  rfl

theorem RowMatch.asrImm (rd : LoReg) (rs : LoReg) (imm : BitVec 5) : RowMatch.Statement (.asrImm rd rs imm) := by
  show (0b000#3 ++ 0b10#2 ++ imm ++ rs.toBits ++ rd.toBits : BitVec 16) &&& ((BitVec.allOnes 3) ++ (BitVec.allOnes 2) ++ 0#5 ++ 0#3 ++ 0#3) = _
  simp only [BitVec.and_append, BitVec.and_zero, BitVec.and_allOnes]
  rfl

theorem RowMatch.addReg (rd : LoReg) (rs : LoReg) (rn : LoReg) : RowMatch.Statement (.addReg rd rs rn) := by
  show (0b00011#5 ++ 0b0#1 ++ 0b0#1 ++ rn.toBits ++ rs.toBits ++ rd.toBits : BitVec 16) &&& ((BitVec.allOnes 5) ++ (BitVec.allOnes 1) ++ (BitVec.allOnes 1) ++ 0#3 ++ 0#3 ++ 0#3) = _
  simp only [BitVec.and_append, BitVec.and_zero, BitVec.and_allOnes]
  rfl

theorem RowMatch.addImm3 (rd : LoReg) (rs : LoReg) (imm : BitVec 3) : RowMatch.Statement (.addImm3 rd rs imm) := by
  show (0b00011#5 ++ 0b1#1 ++ 0b0#1 ++ imm ++ rs.toBits ++ rd.toBits : BitVec 16) &&& ((BitVec.allOnes 5) ++ (BitVec.allOnes 1) ++ (BitVec.allOnes 1) ++ 0#3 ++ 0#3 ++ 0#3) = _
  simp only [BitVec.and_append, BitVec.and_zero, BitVec.and_allOnes]
  rfl

theorem RowMatch.subReg (rd : LoReg) (rs : LoReg) (rn : LoReg) : RowMatch.Statement (.subReg rd rs rn) := by
  show (0b00011#5 ++ 0b0#1 ++ 0b1#1 ++ rn.toBits ++ rs.toBits ++ rd.toBits : BitVec 16) &&& ((BitVec.allOnes 5) ++ (BitVec.allOnes 1) ++ (BitVec.allOnes 1) ++ 0#3 ++ 0#3 ++ 0#3) = _
  simp only [BitVec.and_append, BitVec.and_zero, BitVec.and_allOnes]
  rfl

theorem RowMatch.subImm3 (rd : LoReg) (rs : LoReg) (imm : BitVec 3) : RowMatch.Statement (.subImm3 rd rs imm) := by
  show (0b00011#5 ++ 0b1#1 ++ 0b1#1 ++ imm ++ rs.toBits ++ rd.toBits : BitVec 16) &&& ((BitVec.allOnes 5) ++ (BitVec.allOnes 1) ++ (BitVec.allOnes 1) ++ 0#3 ++ 0#3 ++ 0#3) = _
  simp only [BitVec.and_append, BitVec.and_zero, BitVec.and_allOnes]
  rfl

theorem RowMatch.movImm (rd : LoReg) (imm : BitVec 8) : RowMatch.Statement (.movImm rd imm) := by
  show (0b001#3 ++ 0b00#2 ++ rd.toBits ++ imm : BitVec 16) &&& ((BitVec.allOnes 3) ++ (BitVec.allOnes 2) ++ 0#3 ++ 0#8) = _
  simp only [BitVec.and_append, BitVec.and_zero, BitVec.and_allOnes]
  rfl

theorem RowMatch.cmpImm (rd : LoReg) (imm : BitVec 8) : RowMatch.Statement (.cmpImm rd imm) := by
  show (0b001#3 ++ 0b01#2 ++ rd.toBits ++ imm : BitVec 16) &&& ((BitVec.allOnes 3) ++ (BitVec.allOnes 2) ++ 0#3 ++ 0#8) = _
  simp only [BitVec.and_append, BitVec.and_zero, BitVec.and_allOnes]
  rfl

theorem RowMatch.addImm8 (rd : LoReg) (imm : BitVec 8) : RowMatch.Statement (.addImm8 rd imm) := by
  show (0b001#3 ++ 0b10#2 ++ rd.toBits ++ imm : BitVec 16) &&& ((BitVec.allOnes 3) ++ (BitVec.allOnes 2) ++ 0#3 ++ 0#8) = _
  simp only [BitVec.and_append, BitVec.and_zero, BitVec.and_allOnes]
  rfl

theorem RowMatch.subImm8 (rd : LoReg) (imm : BitVec 8) : RowMatch.Statement (.subImm8 rd imm) := by
  show (0b001#3 ++ 0b11#2 ++ rd.toBits ++ imm : BitVec 16) &&& ((BitVec.allOnes 3) ++ (BitVec.allOnes 2) ++ 0#3 ++ 0#8) = _
  simp only [BitVec.and_append, BitVec.and_zero, BitVec.and_allOnes]
  rfl

theorem RowMatch.andReg (rd : LoReg) (rs : LoReg) : RowMatch.Statement (.andReg rd rs) := by
  show (0b010000#6 ++ 0b0000#4 ++ rs.toBits ++ rd.toBits : BitVec 16) &&& ((BitVec.allOnes 6) ++ (BitVec.allOnes 4) ++ 0#3 ++ 0#3) = _
  simp only [BitVec.and_append, BitVec.and_zero, BitVec.and_allOnes]
  rfl

theorem RowMatch.eorReg (rd : LoReg) (rs : LoReg) : RowMatch.Statement (.eorReg rd rs) := by
  show (0b010000#6 ++ 0b0001#4 ++ rs.toBits ++ rd.toBits : BitVec 16) &&& ((BitVec.allOnes 6) ++ (BitVec.allOnes 4) ++ 0#3 ++ 0#3) = _
  simp only [BitVec.and_append, BitVec.and_zero, BitVec.and_allOnes]
  rfl

theorem RowMatch.lslReg (rd : LoReg) (rs : LoReg) : RowMatch.Statement (.lslReg rd rs) := by
  show (0b010000#6 ++ 0b0010#4 ++ rs.toBits ++ rd.toBits : BitVec 16) &&& ((BitVec.allOnes 6) ++ (BitVec.allOnes 4) ++ 0#3 ++ 0#3) = _
  simp only [BitVec.and_append, BitVec.and_zero, BitVec.and_allOnes]
  rfl

theorem RowMatch.lsrReg (rd : LoReg) (rs : LoReg) : RowMatch.Statement (.lsrReg rd rs) := by
  show (0b010000#6 ++ 0b0011#4 ++ rs.toBits ++ rd.toBits : BitVec 16) &&& ((BitVec.allOnes 6) ++ (BitVec.allOnes 4) ++ 0#3 ++ 0#3) = _
  simp only [BitVec.and_append, BitVec.and_zero, BitVec.and_allOnes]
  rfl

theorem RowMatch.asrReg (rd : LoReg) (rs : LoReg) : RowMatch.Statement (.asrReg rd rs) := by
  show (0b010000#6 ++ 0b0100#4 ++ rs.toBits ++ rd.toBits : BitVec 16) &&& ((BitVec.allOnes 6) ++ (BitVec.allOnes 4) ++ 0#3 ++ 0#3) = _
  simp only [BitVec.and_append, BitVec.and_zero, BitVec.and_allOnes]
  rfl

theorem RowMatch.adcReg (rd : LoReg) (rs : LoReg) : RowMatch.Statement (.adcReg rd rs) := by
  show (0b010000#6 ++ 0b0101#4 ++ rs.toBits ++ rd.toBits : BitVec 16) &&& ((BitVec.allOnes 6) ++ (BitVec.allOnes 4) ++ 0#3 ++ 0#3) = _
  simp only [BitVec.and_append, BitVec.and_zero, BitVec.and_allOnes]
  rfl

theorem RowMatch.sbcReg (rd : LoReg) (rs : LoReg) : RowMatch.Statement (.sbcReg rd rs) := by
  show (0b010000#6 ++ 0b0110#4 ++ rs.toBits ++ rd.toBits : BitVec 16) &&& ((BitVec.allOnes 6) ++ (BitVec.allOnes 4) ++ 0#3 ++ 0#3) = _
  simp only [BitVec.and_append, BitVec.and_zero, BitVec.and_allOnes]
  rfl

theorem RowMatch.rorReg (rd : LoReg) (rs : LoReg) : RowMatch.Statement (.rorReg rd rs) := by
  show (0b010000#6 ++ 0b0111#4 ++ rs.toBits ++ rd.toBits : BitVec 16) &&& ((BitVec.allOnes 6) ++ (BitVec.allOnes 4) ++ 0#3 ++ 0#3) = _
  simp only [BitVec.and_append, BitVec.and_zero, BitVec.and_allOnes]
  rfl

theorem RowMatch.tstReg (rd : LoReg) (rs : LoReg) : RowMatch.Statement (.tstReg rd rs) := by
  show (0b010000#6 ++ 0b1000#4 ++ rs.toBits ++ rd.toBits : BitVec 16) &&& ((BitVec.allOnes 6) ++ (BitVec.allOnes 4) ++ 0#3 ++ 0#3) = _
  simp only [BitVec.and_append, BitVec.and_zero, BitVec.and_allOnes]
  rfl

theorem RowMatch.negReg (rd : LoReg) (rs : LoReg) : RowMatch.Statement (.negReg rd rs) := by
  show (0b010000#6 ++ 0b1001#4 ++ rs.toBits ++ rd.toBits : BitVec 16) &&& ((BitVec.allOnes 6) ++ (BitVec.allOnes 4) ++ 0#3 ++ 0#3) = _
  simp only [BitVec.and_append, BitVec.and_zero, BitVec.and_allOnes]
  rfl

theorem RowMatch.cmpReg (rd : LoReg) (rs : LoReg) : RowMatch.Statement (.cmpReg rd rs) := by
  show (0b010000#6 ++ 0b1010#4 ++ rs.toBits ++ rd.toBits : BitVec 16) &&& ((BitVec.allOnes 6) ++ (BitVec.allOnes 4) ++ 0#3 ++ 0#3) = _
  simp only [BitVec.and_append, BitVec.and_zero, BitVec.and_allOnes]
  rfl

theorem RowMatch.cmnReg (rd : LoReg) (rs : LoReg) : RowMatch.Statement (.cmnReg rd rs) := by
  show (0b010000#6 ++ 0b1011#4 ++ rs.toBits ++ rd.toBits : BitVec 16) &&& ((BitVec.allOnes 6) ++ (BitVec.allOnes 4) ++ 0#3 ++ 0#3) = _
  simp only [BitVec.and_append, BitVec.and_zero, BitVec.and_allOnes]
  rfl

theorem RowMatch.orrReg (rd : LoReg) (rs : LoReg) : RowMatch.Statement (.orrReg rd rs) := by
  show (0b010000#6 ++ 0b1100#4 ++ rs.toBits ++ rd.toBits : BitVec 16) &&& ((BitVec.allOnes 6) ++ (BitVec.allOnes 4) ++ 0#3 ++ 0#3) = _
  simp only [BitVec.and_append, BitVec.and_zero, BitVec.and_allOnes]
  rfl

theorem RowMatch.mulReg (rd : LoReg) (rs : LoReg) : RowMatch.Statement (.mulReg rd rs) := by
  show (0b010000#6 ++ 0b1101#4 ++ rs.toBits ++ rd.toBits : BitVec 16) &&& ((BitVec.allOnes 6) ++ (BitVec.allOnes 4) ++ 0#3 ++ 0#3) = _
  simp only [BitVec.and_append, BitVec.and_zero, BitVec.and_allOnes]
  rfl

theorem RowMatch.bicReg (rd : LoReg) (rs : LoReg) : RowMatch.Statement (.bicReg rd rs) := by
  show (0b010000#6 ++ 0b1110#4 ++ rs.toBits ++ rd.toBits : BitVec 16) &&& ((BitVec.allOnes 6) ++ (BitVec.allOnes 4) ++ 0#3 ++ 0#3) = _
  simp only [BitVec.and_append, BitVec.and_zero, BitVec.and_allOnes]
  rfl

theorem RowMatch.mvnReg (rd : LoReg) (rs : LoReg) : RowMatch.Statement (.mvnReg rd rs) := by
  show (0b010000#6 ++ 0b1111#4 ++ rs.toBits ++ rd.toBits : BitVec 16) &&& ((BitVec.allOnes 6) ++ (BitVec.allOnes 4) ++ 0#3 ++ 0#3) = _
  simp only [BitVec.and_append, BitVec.and_zero, BitVec.and_allOnes]
  rfl

theorem RowMatch.addLoHi (rd : LoReg) (hs : HiReg) : RowMatch.Statement (.addLoHi rd hs) := by
  show (0b010001#6 ++ 0b00#2 ++ 0b0#1 ++ 0b1#1 ++ hs.toBits ++ rd.toBits : BitVec 16) &&& ((BitVec.allOnes 6) ++ (BitVec.allOnes 2) ++ (BitVec.allOnes 1) ++ (BitVec.allOnes 1) ++ 0#3 ++ 0#3) = _
  simp only [BitVec.and_append, BitVec.and_zero, BitVec.and_allOnes]
  rfl

theorem RowMatch.addHiLo (hd : HiReg) (rs : LoReg) : RowMatch.Statement (.addHiLo hd rs) := by
  show (0b010001#6 ++ 0b00#2 ++ 0b1#1 ++ 0b0#1 ++ rs.toBits ++ hd.toBits : BitVec 16) &&& ((BitVec.allOnes 6) ++ (BitVec.allOnes 2) ++ (BitVec.allOnes 1) ++ (BitVec.allOnes 1) ++ 0#3 ++ 0#3) = _
  simp only [BitVec.and_append, BitVec.and_zero, BitVec.and_allOnes]
  rfl

theorem RowMatch.addHiHi (hd : HiReg) (hs : HiReg) : RowMatch.Statement (.addHiHi hd hs) := by
  show (0b010001#6 ++ 0b00#2 ++ 0b1#1 ++ 0b1#1 ++ hs.toBits ++ hd.toBits : BitVec 16) &&& ((BitVec.allOnes 6) ++ (BitVec.allOnes 2) ++ (BitVec.allOnes 1) ++ (BitVec.allOnes 1) ++ 0#3 ++ 0#3) = _
  simp only [BitVec.and_append, BitVec.and_zero, BitVec.and_allOnes]
  rfl

theorem RowMatch.cmpLoHi (rd : LoReg) (hs : HiReg) : RowMatch.Statement (.cmpLoHi rd hs) := by
  show (0b010001#6 ++ 0b01#2 ++ 0b0#1 ++ 0b1#1 ++ hs.toBits ++ rd.toBits : BitVec 16) &&& ((BitVec.allOnes 6) ++ (BitVec.allOnes 2) ++ (BitVec.allOnes 1) ++ (BitVec.allOnes 1) ++ 0#3 ++ 0#3) = _
  simp only [BitVec.and_append, BitVec.and_zero, BitVec.and_allOnes]
  rfl

theorem RowMatch.cmpHiLo (hd : HiReg) (rs : LoReg) : RowMatch.Statement (.cmpHiLo hd rs) := by
  show (0b010001#6 ++ 0b01#2 ++ 0b1#1 ++ 0b0#1 ++ rs.toBits ++ hd.toBits : BitVec 16) &&& ((BitVec.allOnes 6) ++ (BitVec.allOnes 2) ++ (BitVec.allOnes 1) ++ (BitVec.allOnes 1) ++ 0#3 ++ 0#3) = _
  simp only [BitVec.and_append, BitVec.and_zero, BitVec.and_allOnes]
  rfl

theorem RowMatch.cmpHiHi (hd : HiReg) (hs : HiReg) : RowMatch.Statement (.cmpHiHi hd hs) := by
  show (0b010001#6 ++ 0b01#2 ++ 0b1#1 ++ 0b1#1 ++ hs.toBits ++ hd.toBits : BitVec 16) &&& ((BitVec.allOnes 6) ++ (BitVec.allOnes 2) ++ (BitVec.allOnes 1) ++ (BitVec.allOnes 1) ++ 0#3 ++ 0#3) = _
  simp only [BitVec.and_append, BitVec.and_zero, BitVec.and_allOnes]
  rfl

theorem RowMatch.movLoHi (rd : LoReg) (hs : HiReg) : RowMatch.Statement (.movLoHi rd hs) := by
  show (0b010001#6 ++ 0b10#2 ++ 0b0#1 ++ 0b1#1 ++ hs.toBits ++ rd.toBits : BitVec 16) &&& ((BitVec.allOnes 6) ++ (BitVec.allOnes 2) ++ (BitVec.allOnes 1) ++ (BitVec.allOnes 1) ++ 0#3 ++ 0#3) = _
  simp only [BitVec.and_append, BitVec.and_zero, BitVec.and_allOnes]
  rfl

theorem RowMatch.movHiLo (hd : HiReg) (rs : LoReg) : RowMatch.Statement (.movHiLo hd rs) := by
  show (0b010001#6 ++ 0b10#2 ++ 0b1#1 ++ 0b0#1 ++ rs.toBits ++ hd.toBits : BitVec 16) &&& ((BitVec.allOnes 6) ++ (BitVec.allOnes 2) ++ (BitVec.allOnes 1) ++ (BitVec.allOnes 1) ++ 0#3 ++ 0#3) = _
  simp only [BitVec.and_append, BitVec.and_zero, BitVec.and_allOnes]
  rfl

theorem RowMatch.movHiHi (hd : HiReg) (hs : HiReg) : RowMatch.Statement (.movHiHi hd hs) := by
  show (0b010001#6 ++ 0b10#2 ++ 0b1#1 ++ 0b1#1 ++ hs.toBits ++ hd.toBits : BitVec 16) &&& ((BitVec.allOnes 6) ++ (BitVec.allOnes 2) ++ (BitVec.allOnes 1) ++ (BitVec.allOnes 1) ++ 0#3 ++ 0#3) = _
  simp only [BitVec.and_append, BitVec.and_zero, BitVec.and_allOnes]
  rfl

theorem RowMatch.bxLo (rs : LoReg) (sbz : BitVec 3) : RowMatch.Statement (.bxLo rs sbz) := by
  show (0b010001#6 ++ 0b11#2 ++ 0b0#1 ++ 0b0#1 ++ rs.toBits ++ sbz : BitVec 16) &&& ((BitVec.allOnes 6) ++ (BitVec.allOnes 2) ++ (BitVec.allOnes 1) ++ (BitVec.allOnes 1) ++ 0#3 ++ 0#3) = _
  simp only [BitVec.and_append, BitVec.and_zero, BitVec.and_allOnes]
  rfl

theorem RowMatch.bxHi (hs : HiReg) (sbz : BitVec 3) : RowMatch.Statement (.bxHi hs sbz) := by
  show (0b010001#6 ++ 0b11#2 ++ 0b0#1 ++ 0b1#1 ++ hs.toBits ++ sbz : BitVec 16) &&& ((BitVec.allOnes 6) ++ (BitVec.allOnes 2) ++ (BitVec.allOnes 1) ++ (BitVec.allOnes 1) ++ 0#3 ++ 0#3) = _
  simp only [BitVec.and_append, BitVec.and_zero, BitVec.and_allOnes]
  rfl

theorem RowMatch.undefAddLoLo (x : BitVec 6) : RowMatch.Statement (.undefAddLoLo x) := by
  show (0b010001#6 ++ 0b00#2 ++ 0b00#2 ++ x : BitVec 16) &&& ((BitVec.allOnes 6) ++ (BitVec.allOnes 2) ++ (BitVec.allOnes 2) ++ 0#6) = _
  simp only [BitVec.and_append, BitVec.and_zero, BitVec.and_allOnes]
  rfl

theorem RowMatch.undefCmpLoLo (x : BitVec 6) : RowMatch.Statement (.undefCmpLoLo x) := by
  show (0b010001#6 ++ 0b01#2 ++ 0b00#2 ++ x : BitVec 16) &&& ((BitVec.allOnes 6) ++ (BitVec.allOnes 2) ++ (BitVec.allOnes 2) ++ 0#6) = _
  simp only [BitVec.and_append, BitVec.and_zero, BitVec.and_allOnes]
  rfl

theorem RowMatch.undefMovLoLo (x : BitVec 6) : RowMatch.Statement (.undefMovLoLo x) := by
  show (0b010001#6 ++ 0b10#2 ++ 0b00#2 ++ x : BitVec 16) &&& ((BitVec.allOnes 6) ++ (BitVec.allOnes 2) ++ (BitVec.allOnes 2) ++ 0#6) = _
  simp only [BitVec.and_append, BitVec.and_zero, BitVec.and_allOnes]
  rfl

theorem RowMatch.undefBxH1 (x : BitVec 7) : RowMatch.Statement (.undefBxH1 x) := by
  show (0b010001#6 ++ 0b11#2 ++ 0b1#1 ++ x : BitVec 16) &&& ((BitVec.allOnes 6) ++ (BitVec.allOnes 2) ++ (BitVec.allOnes 1) ++ 0#7) = _
  simp only [BitVec.and_append, BitVec.and_zero, BitVec.and_allOnes]
  rfl

theorem RowMatch.ldrPc (rd : LoReg) (word8 : BitVec 8) : RowMatch.Statement (.ldrPc rd word8) := by
  show (0b01001#5 ++ rd.toBits ++ word8 : BitVec 16) &&& ((BitVec.allOnes 5) ++ 0#3 ++ 0#8) = _
  simp only [BitVec.and_append, BitVec.and_zero, BitVec.and_allOnes]
  rfl

theorem RowMatch.strReg (rd : LoReg) (rb : LoReg) (ro : LoReg) : RowMatch.Statement (.strReg rd rb ro) := by
  show (0b0101#4 ++ 0b000#3 ++ ro.toBits ++ rb.toBits ++ rd.toBits : BitVec 16) &&& ((BitVec.allOnes 4) ++ (BitVec.allOnes 3) ++ 0#3 ++ 0#3 ++ 0#3) = _
  simp only [BitVec.and_append, BitVec.and_zero, BitVec.and_allOnes]
  rfl

theorem RowMatch.strbReg (rd : LoReg) (rb : LoReg) (ro : LoReg) : RowMatch.Statement (.strbReg rd rb ro) := by
  show (0b0101#4 ++ 0b010#3 ++ ro.toBits ++ rb.toBits ++ rd.toBits : BitVec 16) &&& ((BitVec.allOnes 4) ++ (BitVec.allOnes 3) ++ 0#3 ++ 0#3 ++ 0#3) = _
  simp only [BitVec.and_append, BitVec.and_zero, BitVec.and_allOnes]
  rfl

theorem RowMatch.ldrReg (rd : LoReg) (rb : LoReg) (ro : LoReg) : RowMatch.Statement (.ldrReg rd rb ro) := by
  show (0b0101#4 ++ 0b100#3 ++ ro.toBits ++ rb.toBits ++ rd.toBits : BitVec 16) &&& ((BitVec.allOnes 4) ++ (BitVec.allOnes 3) ++ 0#3 ++ 0#3 ++ 0#3) = _
  simp only [BitVec.and_append, BitVec.and_zero, BitVec.and_allOnes]
  rfl

theorem RowMatch.ldrbReg (rd : LoReg) (rb : LoReg) (ro : LoReg) : RowMatch.Statement (.ldrbReg rd rb ro) := by
  show (0b0101#4 ++ 0b110#3 ++ ro.toBits ++ rb.toBits ++ rd.toBits : BitVec 16) &&& ((BitVec.allOnes 4) ++ (BitVec.allOnes 3) ++ 0#3 ++ 0#3 ++ 0#3) = _
  simp only [BitVec.and_append, BitVec.and_zero, BitVec.and_allOnes]
  rfl

theorem RowMatch.strhReg (rd : LoReg) (rb : LoReg) (ro : LoReg) : RowMatch.Statement (.strhReg rd rb ro) := by
  show (0b0101#4 ++ 0b001#3 ++ ro.toBits ++ rb.toBits ++ rd.toBits : BitVec 16) &&& ((BitVec.allOnes 4) ++ (BitVec.allOnes 3) ++ 0#3 ++ 0#3 ++ 0#3) = _
  simp only [BitVec.and_append, BitVec.and_zero, BitVec.and_allOnes]
  rfl

theorem RowMatch.ldrhReg (rd : LoReg) (rb : LoReg) (ro : LoReg) : RowMatch.Statement (.ldrhReg rd rb ro) := by
  show (0b0101#4 ++ 0b101#3 ++ ro.toBits ++ rb.toBits ++ rd.toBits : BitVec 16) &&& ((BitVec.allOnes 4) ++ (BitVec.allOnes 3) ++ 0#3 ++ 0#3 ++ 0#3) = _
  simp only [BitVec.and_append, BitVec.and_zero, BitVec.and_allOnes]
  rfl

theorem RowMatch.ldsbReg (rd : LoReg) (rb : LoReg) (ro : LoReg) : RowMatch.Statement (.ldsbReg rd rb ro) := by
  show (0b0101#4 ++ 0b011#3 ++ ro.toBits ++ rb.toBits ++ rd.toBits : BitVec 16) &&& ((BitVec.allOnes 4) ++ (BitVec.allOnes 3) ++ 0#3 ++ 0#3 ++ 0#3) = _
  simp only [BitVec.and_append, BitVec.and_zero, BitVec.and_allOnes]
  rfl

theorem RowMatch.ldshReg (rd : LoReg) (rb : LoReg) (ro : LoReg) : RowMatch.Statement (.ldshReg rd rb ro) := by
  show (0b0101#4 ++ 0b111#3 ++ ro.toBits ++ rb.toBits ++ rd.toBits : BitVec 16) &&& ((BitVec.allOnes 4) ++ (BitVec.allOnes 3) ++ 0#3 ++ 0#3 ++ 0#3) = _
  simp only [BitVec.and_append, BitVec.and_zero, BitVec.and_allOnes]
  rfl

theorem RowMatch.strImm (rd : LoReg) (rb : LoReg) (off5 : BitVec 5) : RowMatch.Statement (.strImm rd rb off5) := by
  show (0b011#3 ++ 0b00#2 ++ off5 ++ rb.toBits ++ rd.toBits : BitVec 16) &&& ((BitVec.allOnes 3) ++ (BitVec.allOnes 2) ++ 0#5 ++ 0#3 ++ 0#3) = _
  simp only [BitVec.and_append, BitVec.and_zero, BitVec.and_allOnes]
  rfl

theorem RowMatch.ldrImm (rd : LoReg) (rb : LoReg) (off5 : BitVec 5) : RowMatch.Statement (.ldrImm rd rb off5) := by
  show (0b011#3 ++ 0b01#2 ++ off5 ++ rb.toBits ++ rd.toBits : BitVec 16) &&& ((BitVec.allOnes 3) ++ (BitVec.allOnes 2) ++ 0#5 ++ 0#3 ++ 0#3) = _
  simp only [BitVec.and_append, BitVec.and_zero, BitVec.and_allOnes]
  rfl

theorem RowMatch.strbImm (rd : LoReg) (rb : LoReg) (off5 : BitVec 5) : RowMatch.Statement (.strbImm rd rb off5) := by
  show (0b011#3 ++ 0b10#2 ++ off5 ++ rb.toBits ++ rd.toBits : BitVec 16) &&& ((BitVec.allOnes 3) ++ (BitVec.allOnes 2) ++ 0#5 ++ 0#3 ++ 0#3) = _
  simp only [BitVec.and_append, BitVec.and_zero, BitVec.and_allOnes]
  rfl

theorem RowMatch.ldrbImm (rd : LoReg) (rb : LoReg) (off5 : BitVec 5) : RowMatch.Statement (.ldrbImm rd rb off5) := by
  show (0b011#3 ++ 0b11#2 ++ off5 ++ rb.toBits ++ rd.toBits : BitVec 16) &&& ((BitVec.allOnes 3) ++ (BitVec.allOnes 2) ++ 0#5 ++ 0#3 ++ 0#3) = _
  simp only [BitVec.and_append, BitVec.and_zero, BitVec.and_allOnes]
  rfl

theorem RowMatch.strhImm (rd : LoReg) (rb : LoReg) (off5 : BitVec 5) : RowMatch.Statement (.strhImm rd rb off5) := by
  show (0b1000#4 ++ 0b0#1 ++ off5 ++ rb.toBits ++ rd.toBits : BitVec 16) &&& ((BitVec.allOnes 4) ++ (BitVec.allOnes 1) ++ 0#5 ++ 0#3 ++ 0#3) = _
  simp only [BitVec.and_append, BitVec.and_zero, BitVec.and_allOnes]
  rfl

theorem RowMatch.ldrhImm (rd : LoReg) (rb : LoReg) (off5 : BitVec 5) : RowMatch.Statement (.ldrhImm rd rb off5) := by
  show (0b1000#4 ++ 0b1#1 ++ off5 ++ rb.toBits ++ rd.toBits : BitVec 16) &&& ((BitVec.allOnes 4) ++ (BitVec.allOnes 1) ++ 0#5 ++ 0#3 ++ 0#3) = _
  simp only [BitVec.and_append, BitVec.and_zero, BitVec.and_allOnes]
  rfl

theorem RowMatch.strSp (rd : LoReg) (word8 : BitVec 8) : RowMatch.Statement (.strSp rd word8) := by
  show (0b1001#4 ++ 0b0#1 ++ rd.toBits ++ word8 : BitVec 16) &&& ((BitVec.allOnes 4) ++ (BitVec.allOnes 1) ++ 0#3 ++ 0#8) = _
  simp only [BitVec.and_append, BitVec.and_zero, BitVec.and_allOnes]
  rfl

theorem RowMatch.ldrSp (rd : LoReg) (word8 : BitVec 8) : RowMatch.Statement (.ldrSp rd word8) := by
  show (0b1001#4 ++ 0b1#1 ++ rd.toBits ++ word8 : BitVec 16) &&& ((BitVec.allOnes 4) ++ (BitVec.allOnes 1) ++ 0#3 ++ 0#8) = _
  simp only [BitVec.and_append, BitVec.and_zero, BitVec.and_allOnes]
  rfl

theorem RowMatch.addPc (rd : LoReg) (word8 : BitVec 8) : RowMatch.Statement (.addPc rd word8) := by
  show (0b1010#4 ++ 0b0#1 ++ rd.toBits ++ word8 : BitVec 16) &&& ((BitVec.allOnes 4) ++ (BitVec.allOnes 1) ++ 0#3 ++ 0#8) = _
  simp only [BitVec.and_append, BitVec.and_zero, BitVec.and_allOnes]
  rfl

theorem RowMatch.addSpRd (rd : LoReg) (word8 : BitVec 8) : RowMatch.Statement (.addSpRd rd word8) := by
  show (0b1010#4 ++ 0b1#1 ++ rd.toBits ++ word8 : BitVec 16) &&& ((BitVec.allOnes 4) ++ (BitVec.allOnes 1) ++ 0#3 ++ 0#8) = _
  simp only [BitVec.and_append, BitVec.and_zero, BitVec.and_allOnes]
  rfl

theorem RowMatch.addSpPos (sword7 : BitVec 7) : RowMatch.Statement (.addSpPos sword7) := by
  show (0b10110000#8 ++ 0b0#1 ++ sword7 : BitVec 16) &&& ((BitVec.allOnes 8) ++ (BitVec.allOnes 1) ++ 0#7) = _
  simp only [BitVec.and_append, BitVec.and_zero, BitVec.and_allOnes]
  rfl

theorem RowMatch.addSpNeg (sword7 : BitVec 7) : RowMatch.Statement (.addSpNeg sword7) := by
  show (0b10110000#8 ++ 0b1#1 ++ sword7 : BitVec 16) &&& ((BitVec.allOnes 8) ++ (BitVec.allOnes 1) ++ 0#7) = _
  simp only [BitVec.and_append, BitVec.and_zero, BitVec.and_allOnes]
  rfl

theorem RowMatch.push (rlist : BitVec 8) : RowMatch.Statement (.push rlist) := by
  show (0b1011#4 ++ 0b0#1 ++ 0b10#2 ++ 0b0#1 ++ rlist : BitVec 16) &&& ((BitVec.allOnes 4) ++ (BitVec.allOnes 1) ++ (BitVec.allOnes 2) ++ (BitVec.allOnes 1) ++ 0#8) = _
  simp only [BitVec.and_append, BitVec.and_zero, BitVec.and_allOnes]
  rfl

theorem RowMatch.pushLr (rlist : BitVec 8) : RowMatch.Statement (.pushLr rlist) := by
  show (0b1011#4 ++ 0b0#1 ++ 0b10#2 ++ 0b1#1 ++ rlist : BitVec 16) &&& ((BitVec.allOnes 4) ++ (BitVec.allOnes 1) ++ (BitVec.allOnes 2) ++ (BitVec.allOnes 1) ++ 0#8) = _
  simp only [BitVec.and_append, BitVec.and_zero, BitVec.and_allOnes]
  rfl

theorem RowMatch.pop (rlist : BitVec 8) : RowMatch.Statement (.pop rlist) := by
  show (0b1011#4 ++ 0b1#1 ++ 0b10#2 ++ 0b0#1 ++ rlist : BitVec 16) &&& ((BitVec.allOnes 4) ++ (BitVec.allOnes 1) ++ (BitVec.allOnes 2) ++ (BitVec.allOnes 1) ++ 0#8) = _
  simp only [BitVec.and_append, BitVec.and_zero, BitVec.and_allOnes]
  rfl

theorem RowMatch.popPc (rlist : BitVec 8) : RowMatch.Statement (.popPc rlist) := by
  show (0b1011#4 ++ 0b1#1 ++ 0b10#2 ++ 0b1#1 ++ rlist : BitVec 16) &&& ((BitVec.allOnes 4) ++ (BitVec.allOnes 1) ++ (BitVec.allOnes 2) ++ (BitVec.allOnes 1) ++ 0#8) = _
  simp only [BitVec.and_append, BitVec.and_zero, BitVec.and_allOnes]
  rfl

theorem RowMatch.stmia (rb : LoReg) (rlist : BitVec 8) : RowMatch.Statement (.stmia rb rlist) := by
  show (0b1100#4 ++ 0b0#1 ++ rb.toBits ++ rlist : BitVec 16) &&& ((BitVec.allOnes 4) ++ (BitVec.allOnes 1) ++ 0#3 ++ 0#8) = _
  simp only [BitVec.and_append, BitVec.and_zero, BitVec.and_allOnes]
  rfl

theorem RowMatch.ldmia (rb : LoReg) (rlist : BitVec 8) : RowMatch.Statement (.ldmia rb rlist) := by
  show (0b1100#4 ++ 0b1#1 ++ rb.toBits ++ rlist : BitVec 16) &&& ((BitVec.allOnes 4) ++ (BitVec.allOnes 1) ++ 0#3 ++ 0#8) = _
  simp only [BitVec.and_append, BitVec.and_zero, BitVec.and_allOnes]
  rfl

theorem RowMatch.beq (soff8 : BitVec 8) : RowMatch.Statement (.beq soff8) := by
  show (0b1101#4 ++ 0b0000#4 ++ soff8 : BitVec 16) &&& ((BitVec.allOnes 4) ++ (BitVec.allOnes 4) ++ 0#8) = _
  simp only [BitVec.and_append, BitVec.and_zero, BitVec.and_allOnes]
  rfl

theorem RowMatch.bne (soff8 : BitVec 8) : RowMatch.Statement (.bne soff8) := by
  show (0b1101#4 ++ 0b0001#4 ++ soff8 : BitVec 16) &&& ((BitVec.allOnes 4) ++ (BitVec.allOnes 4) ++ 0#8) = _
  simp only [BitVec.and_append, BitVec.and_zero, BitVec.and_allOnes]
  rfl

theorem RowMatch.bcs (soff8 : BitVec 8) : RowMatch.Statement (.bcs soff8) := by
  show (0b1101#4 ++ 0b0010#4 ++ soff8 : BitVec 16) &&& ((BitVec.allOnes 4) ++ (BitVec.allOnes 4) ++ 0#8) = _
  simp only [BitVec.and_append, BitVec.and_zero, BitVec.and_allOnes]
  rfl

theorem RowMatch.bcc (soff8 : BitVec 8) : RowMatch.Statement (.bcc soff8) := by
  show (0b1101#4 ++ 0b0011#4 ++ soff8 : BitVec 16) &&& ((BitVec.allOnes 4) ++ (BitVec.allOnes 4) ++ 0#8) = _
  simp only [BitVec.and_append, BitVec.and_zero, BitVec.and_allOnes]
  rfl

theorem RowMatch.bmi (soff8 : BitVec 8) : RowMatch.Statement (.bmi soff8) := by
  show (0b1101#4 ++ 0b0100#4 ++ soff8 : BitVec 16) &&& ((BitVec.allOnes 4) ++ (BitVec.allOnes 4) ++ 0#8) = _
  simp only [BitVec.and_append, BitVec.and_zero, BitVec.and_allOnes]
  rfl

theorem RowMatch.bpl (soff8 : BitVec 8) : RowMatch.Statement (.bpl soff8) := by
  show (0b1101#4 ++ 0b0101#4 ++ soff8 : BitVec 16) &&& ((BitVec.allOnes 4) ++ (BitVec.allOnes 4) ++ 0#8) = _
  simp only [BitVec.and_append, BitVec.and_zero, BitVec.and_allOnes]
  rfl

theorem RowMatch.bvs (soff8 : BitVec 8) : RowMatch.Statement (.bvs soff8) := by
  show (0b1101#4 ++ 0b0110#4 ++ soff8 : BitVec 16) &&& ((BitVec.allOnes 4) ++ (BitVec.allOnes 4) ++ 0#8) = _
  simp only [BitVec.and_append, BitVec.and_zero, BitVec.and_allOnes]
  rfl

theorem RowMatch.bvc (soff8 : BitVec 8) : RowMatch.Statement (.bvc soff8) := by
  show (0b1101#4 ++ 0b0111#4 ++ soff8 : BitVec 16) &&& ((BitVec.allOnes 4) ++ (BitVec.allOnes 4) ++ 0#8) = _
  simp only [BitVec.and_append, BitVec.and_zero, BitVec.and_allOnes]
  rfl

theorem RowMatch.bhi (soff8 : BitVec 8) : RowMatch.Statement (.bhi soff8) := by
  show (0b1101#4 ++ 0b1000#4 ++ soff8 : BitVec 16) &&& ((BitVec.allOnes 4) ++ (BitVec.allOnes 4) ++ 0#8) = _
  simp only [BitVec.and_append, BitVec.and_zero, BitVec.and_allOnes]
  rfl

theorem RowMatch.bls (soff8 : BitVec 8) : RowMatch.Statement (.bls soff8) := by
  show (0b1101#4 ++ 0b1001#4 ++ soff8 : BitVec 16) &&& ((BitVec.allOnes 4) ++ (BitVec.allOnes 4) ++ 0#8) = _
  simp only [BitVec.and_append, BitVec.and_zero, BitVec.and_allOnes]
  rfl

theorem RowMatch.bge (soff8 : BitVec 8) : RowMatch.Statement (.bge soff8) := by
  show (0b1101#4 ++ 0b1010#4 ++ soff8 : BitVec 16) &&& ((BitVec.allOnes 4) ++ (BitVec.allOnes 4) ++ 0#8) = _
  simp only [BitVec.and_append, BitVec.and_zero, BitVec.and_allOnes]
  rfl

theorem RowMatch.blt (soff8 : BitVec 8) : RowMatch.Statement (.blt soff8) := by
  show (0b1101#4 ++ 0b1011#4 ++ soff8 : BitVec 16) &&& ((BitVec.allOnes 4) ++ (BitVec.allOnes 4) ++ 0#8) = _
  simp only [BitVec.and_append, BitVec.and_zero, BitVec.and_allOnes]
  rfl

theorem RowMatch.bgt (soff8 : BitVec 8) : RowMatch.Statement (.bgt soff8) := by
  show (0b1101#4 ++ 0b1100#4 ++ soff8 : BitVec 16) &&& ((BitVec.allOnes 4) ++ (BitVec.allOnes 4) ++ 0#8) = _
  simp only [BitVec.and_append, BitVec.and_zero, BitVec.and_allOnes]
  rfl

theorem RowMatch.ble (soff8 : BitVec 8) : RowMatch.Statement (.ble soff8) := by
  show (0b1101#4 ++ 0b1101#4 ++ soff8 : BitVec 16) &&& ((BitVec.allOnes 4) ++ (BitVec.allOnes 4) ++ 0#8) = _
  simp only [BitVec.and_append, BitVec.and_zero, BitVec.and_allOnes]
  rfl

theorem RowMatch.undefCond1110 (x : BitVec 8) : RowMatch.Statement (.undefCond1110 x) := by
  show (0b1101#4 ++ 0b1110#4 ++ x : BitVec 16) &&& ((BitVec.allOnes 4) ++ (BitVec.allOnes 4) ++ 0#8) = _
  simp only [BitVec.and_append, BitVec.and_zero, BitVec.and_allOnes]
  rfl

theorem RowMatch.swi (value8 : BitVec 8) : RowMatch.Statement (.swi value8) := by
  show (0b11011111#8 ++ value8 : BitVec 16) &&& ((BitVec.allOnes 8) ++ 0#8) = _
  simp only [BitVec.and_append, BitVec.and_zero, BitVec.and_allOnes]
  rfl

theorem RowMatch.b (off11 : BitVec 11) : RowMatch.Statement (.b off11) := by
  show (0b11100#5 ++ off11 : BitVec 16) &&& ((BitVec.allOnes 5) ++ 0#11) = _
  simp only [BitVec.and_append, BitVec.and_zero, BitVec.and_allOnes]
  rfl

theorem RowMatch.blHigh (off11 : BitVec 11) : RowMatch.Statement (.blHigh off11) := by
  show (0b1111#4 ++ 0b0#1 ++ off11 : BitVec 16) &&& ((BitVec.allOnes 4) ++ (BitVec.allOnes 1) ++ 0#11) = _
  simp only [BitVec.and_append, BitVec.and_zero, BitVec.and_allOnes]
  rfl

theorem RowMatch.blLow (off11 : BitVec 11) : RowMatch.Statement (.blLow off11) := by
  show (0b1111#4 ++ 0b1#1 ++ off11 : BitVec 16) &&& ((BitVec.allOnes 4) ++ (BitVec.allOnes 1) ++ 0#11) = _
  simp only [BitVec.and_append, BitVec.and_zero, BitVec.and_allOnes]
  rfl

theorem RowMatch.undefB1 (x : BitVec 8) : RowMatch.Statement (.undefB1 x) := by
  show (0b10110001#8 ++ x : BitVec 16) &&& ((BitVec.allOnes 8) ++ 0#8) = _
  simp only [BitVec.and_append, BitVec.and_zero, BitVec.and_allOnes]
  rfl

theorem RowMatch.undefB2B3 (x : BitVec 9) : RowMatch.Statement (.undefB2B3 x) := by
  show (0b1011001#7 ++ x : BitVec 16) &&& ((BitVec.allOnes 7) ++ 0#9) = _
  simp only [BitVec.and_append, BitVec.and_zero, BitVec.and_allOnes]
  rfl

theorem RowMatch.undefB6B7 (x : BitVec 9) : RowMatch.Statement (.undefB6B7 x) := by
  show (0b1011011#7 ++ x : BitVec 16) &&& ((BitVec.allOnes 7) ++ 0#9) = _
  simp only [BitVec.and_append, BitVec.and_zero, BitVec.and_allOnes]
  rfl

theorem RowMatch.undefB8BB (x : BitVec 10) : RowMatch.Statement (.undefB8BB x) := by
  show (0b101110#6 ++ x : BitVec 16) &&& ((BitVec.allOnes 6) ++ 0#10) = _
  simp only [BitVec.and_append, BitVec.and_zero, BitVec.and_allOnes]
  rfl

theorem RowMatch.undefBEBF (x : BitVec 9) : RowMatch.Statement (.undefBEBF x) := by
  show (0b1011111#7 ++ x : BitVec 16) &&& ((BitVec.allOnes 7) ++ 0#9) = _
  simp only [BitVec.and_append, BitVec.and_zero, BitVec.and_allOnes]
  rfl

theorem RowMatch.undefE8EF (x : BitVec 11) : RowMatch.Statement (.undefE8EF x) := by
  show (0b11101#5 ++ x : BitVec 16) &&& ((BitVec.allOnes 5) ++ 0#11) = _
  simp only [BitVec.and_append, BitVec.and_zero, BitVec.and_allOnes]
  rfl

end Sys2Proof.Laws
end

