-- ==== Sys2Proof/Tests/Slice0.lean ====
section
/-! SUPPORT. The model's own tests: decoding words written out from the spec's encodings, one step on the spec's vectors,
the well-formedness checks, and witnesses for the hypotheses of the statements. -/

namespace Sys2Proof.Tests

open Sys2Proof.Machine

set_option Elab.async false

/-! ### Decoding and encoding

One word of every row, its fields written into the patterns of spec/30_encoding.md (rules R81 to R99, R111, R112): the
registers R5, R2, R6, R3 and immediates no rotation of which is the same number. -/

/-- The words decode to the instructions, and the instructions encode to the words. -/
abbrev Agree (l : List (Half × Instr)) : Prop :=
  ∀ p ∈ l, decode p.1 = p.2 ∧ encode p.2 = p.1

theorem test_decode_format_1 :
    Agree [(0b000_00_10110_101_010#16, .lslImm .r2 .r5 0b10110#5),
      (0b000_01_10110_101_010#16, .lsrImm .r2 .r5 0b10110#5),
      (0b000_10_10110_101_010#16, .asrImm .r2 .r5 0b10110#5)] := by decide +kernel

theorem test_decode_format_2 :
    Agree [(0b00011_0_0_110_101_010#16, .addReg .r2 .r5 .r6), (0b00011_1_0_110_101_010#16, .addImm3 .r2 .r5 0b110#3),
      (0b00011_0_1_110_101_010#16, .subReg .r2 .r5 .r6), (0b00011_1_1_110_101_010#16, .subImm3 .r2 .r5 0b110#3)] :=
        by decide +kernel

theorem test_decode_format_3 :
    Agree [(0b001_00_010_10110010#16, .movImm .r2 0b10110010#8), (0b001_01_010_10110010#16, .cmpImm .r2 0b10110010#8),
      (0b001_10_010_10110010#16, .addImm8 .r2 0b10110010#8), (0b001_11_010_10110010#16, .subImm8 .r2 0b10110010#8)]
        := by decide +kernel

theorem test_decode_format_4 :
    Agree [(0b010000_0000_101_010#16, .andReg .r2 .r5), (0b010000_0001_101_010#16, .eorReg .r2 .r5),
      (0b010000_0010_101_010#16, .lslReg .r2 .r5), (0b010000_0011_101_010#16, .lsrReg .r2 .r5),
      (0b010000_0100_101_010#16, .asrReg .r2 .r5), (0b010000_0101_101_010#16, .adcReg .r2 .r5),
      (0b010000_0110_101_010#16, .sbcReg .r2 .r5), (0b010000_0111_101_010#16, .rorReg .r2 .r5),
      (0b010000_1000_101_010#16, .tstReg .r2 .r5), (0b010000_1001_101_010#16, .negReg .r2 .r5),
      (0b010000_1010_101_010#16, .cmpReg .r2 .r5), (0b010000_1011_101_010#16, .cmnReg .r2 .r5),
      (0b010000_1100_101_010#16, .orrReg .r2 .r5), (0b010000_1101_101_010#16, .mulReg .r2 .r5),
      (0b010000_1110_101_010#16, .bicReg .r2 .r5), (0b010000_1111_101_010#16, .mvnReg .r2 .r5)] := by decide +kernel

theorem test_decode_format_5 :
    Agree [(0b010001_00_0_1_101_010#16, .addLoHi .r2 .r13), (0b010001_00_1_0_101_010#16, .addHiLo .r10 .r5),
      (0b010001_00_1_1_101_010#16, .addHiHi .r10 .r13), (0b010001_01_0_1_101_010#16, .cmpLoHi .r2 .r13),
      (0b010001_01_1_0_101_010#16, .cmpHiLo .r10 .r5), (0b010001_01_1_1_101_010#16, .cmpHiHi .r10 .r13),
      (0b010001_10_0_1_101_010#16, .movLoHi .r2 .r13), (0b010001_10_1_0_101_010#16, .movHiLo .r10 .r5),
      (0b010001_10_1_1_101_010#16, .movHiHi .r10 .r13), (0b010001_11_0_0_101_000#16, .bxLo .r5 0#3),
      (0b010001_11_0_1_101_000#16, .bxHi .r13 0#3)] := by decide +kernel

theorem test_decode_undefined :
    Agree [(0b010001_00_0_0_101_101#16, .undefAddLoLo 0b101101#6),
      (0b010001_01_0_0_101_101#16, .undefCmpLoLo 0b101101#6),
      (0b010001_10_0_0_101_101#16, .undefMovLoLo 0b101101#6), (0b010001_11_1_1_101_101#16, .undefBxH1 0b1101101#7),
      (0b1101_1110_10110010#16, .undefCond1110 0b10110010#8), (0b1011_0001_10110010#16, .undefB1 0b10110010#8),
      (0b1011_0011_10110010#16, .undefB2B3 0b110110010#9), (0b1011_0111_10110010#16, .undefB6B7 0b110110010#9),
      (0b1011_1011_10110010#16, .undefB8BB 0b1110110010#10), (0b1011_1111_10110010#16, .undefBEBF 0b110110010#9),
      (0b11101_10110011010#16, .undefE8EF 0b10110011010#11)] := by decide +kernel

theorem test_decode_format_6 :
    Agree [(0b01001_010_10110010#16, .ldrPc .r2 0b10110010#8)] := by decide +kernel

theorem test_decode_format_7 :
    Agree [(0b0101_0_0_0_110_011_010#16, .strReg .r2 .r3 .r6), (0b0101_0_1_0_110_011_010#16, .strbReg .r2 .r3 .r6),
      (0b0101_1_0_0_110_011_010#16, .ldrReg .r2 .r3 .r6), (0b0101_1_1_0_110_011_010#16, .ldrbReg .r2 .r3 .r6)] :=
        by decide +kernel

theorem test_decode_format_8 :
    Agree [(0b0101_0_0_1_110_011_010#16, .strhReg .r2 .r3 .r6), (0b0101_1_0_1_110_011_010#16, .ldrhReg .r2 .r3 .r6),
      (0b0101_0_1_1_110_011_010#16, .ldsbReg .r2 .r3 .r6), (0b0101_1_1_1_110_011_010#16, .ldshReg .r2 .r3 .r6)] :=
        by decide +kernel

theorem test_decode_format_9 :
    Agree [(0b011_0_0_10110_011_010#16, .strImm .r2 .r3 0b10110#5),
      (0b011_0_1_10110_011_010#16, .ldrImm .r2 .r3 0b10110#5),
      (0b011_1_0_10110_011_010#16, .strbImm .r2 .r3 0b10110#5),
      (0b011_1_1_10110_011_010#16, .ldrbImm .r2 .r3 0b10110#5)] := by decide +kernel

theorem test_decode_format_10 :
    Agree [(0b1000_0_10110_011_010#16, .strhImm .r2 .r3 0b10110#5),
      (0b1000_1_10110_011_010#16, .ldrhImm .r2 .r3 0b10110#5)] := by decide +kernel

theorem test_decode_format_11 :
    Agree [(0b1001_0_010_10110010#16, .strSp .r2 0b10110010#8), (0b1001_1_010_10110010#16, .ldrSp .r2 0b10110010#8)]
      := by decide +kernel

theorem test_decode_format_12 :
    Agree [(0b1010_0_010_10110010#16, .addPc .r2 0b10110010#8), (0b1010_1_010_10110010#16, .addSpRd .r2
      0b10110010#8)] := by decide +kernel

theorem test_decode_format_13 :
    Agree [(0b10110000_0_1011001#16, .addSpPos 0b1011001#7), (0b10110000_1_1011001#16, .addSpNeg 0b1011001#7)] :=
      by decide +kernel

theorem test_decode_format_14 :
    Agree [(0b1011_0_10_0_10010110#16, .push 0b10010110#8), (0b1011_0_10_1_10010110#16, .pushLr 0b10010110#8),
      (0b1011_1_10_0_10010110#16, .pop 0b10010110#8), (0b1011_1_10_1_10010110#16, .popPc 0b10010110#8)] :=
        by decide +kernel

theorem test_decode_format_15 :
    Agree [(0b1100_0_011_10010110#16, .stmia .r3 0b10010110#8), (0b1100_1_011_10010110#16, .ldmia .r3 0b10010110#8)]
      := by decide +kernel

theorem test_decode_format_16 :
    Agree [(0b1101_0000_10110010#16, .beq 0b10110010#8), (0b1101_0001_10110010#16, .bne 0b10110010#8),
      (0b1101_0010_10110010#16, .bcs 0b10110010#8), (0b1101_0011_10110010#16, .bcc 0b10110010#8),
      (0b1101_0100_10110010#16, .bmi 0b10110010#8), (0b1101_0101_10110010#16, .bpl 0b10110010#8),
      (0b1101_0110_10110010#16, .bvs 0b10110010#8), (0b1101_0111_10110010#16, .bvc 0b10110010#8),
      (0b1101_1000_10110010#16, .bhi 0b10110010#8), (0b1101_1001_10110010#16, .bls 0b10110010#8),
      (0b1101_1010_10110010#16, .bge 0b10110010#8), (0b1101_1011_10110010#16, .blt 0b10110010#8),
      (0b1101_1100_10110010#16, .bgt 0b10110010#8), (0b1101_1101_10110010#16, .ble 0b10110010#8)] := by decide +kernel

theorem test_decode_format_17 :
    Agree [(0b1101_1111_10110010#16, .swi 0b10110010#8)] := by decide +kernel

theorem test_decode_format_18 :
    Agree [(0b11100_10110011010#16, .b 0b10110011010#11)] := by decide +kernel

theorem test_decode_format_19 :
    Agree [(0b1111_0_10110011010#16, .blHigh 0b10110011010#11), (0b1111_1_10110011010#16, .blLow 0b10110011010#11)]
      := by decide +kernel

/-! ### One step on the spec's vectors

Each step fetches the word at the pc of a small state built from reset (Supervisor mode, so SP and LR are R13_svc and
R14_svc) and answers exactly the state expected: the listed registers, bytes, pc and flags, and nothing else changed. -/

/-- One vector: the word, what the state before holds, and what the state after holds besides. -/
structure Vector16 where
  w : Nat
  pc : Word := 0x8000
  nzcv : BitVec 4 := 0
  endian : Endian := .little
  regs : List (PReg × Word) := []
  mem : Nat × List Byte := (0, [])
  toRegs : List (PReg × Word) := []
  toMem : Nat × List Byte := (0, [])
  toPc : Word := pc + 2
  toNzcv : BitVec 4 := 0

/-- A state with registers, bytes, a pc and flags set. -/
def setAll (s : State) (regs : List (PReg × Word)) (mem : Nat × List Byte) (pc : Word) (nzcv : BitVec 4) : State :=
  { s with
    regs := regs.foldl (fun f r => f.set r.1 r.2) s.regs
    mem := s.mem.writeBytes (BitVec.ofNat 32 mem.1) mem.2
    pc := pc
    cpsr := { s.cpsr with
      n := nzcv.getLsbD 3, z := nzcv.getLsbD 2, c := nzcv.getLsbD 1, v := nzcv.getLsbD 0 } }

/-- The state before the step, with the word where the step fetches. -/
def Vector16.start (x : Vector16) : State :=
  (setAll { State.reset with endian := x.endian } x.regs x.mem x.pc x.nzcv).withFetchWord 16 x.w

/-- The step answers the state expected. -/
def Vector16.holds (x : Vector16) : Bool :=
  match step x.start with
  | .next t => decide (t = setAll x.start x.toRegs x.toMem x.toPc x.toNzcv)
  | _ => false

/-- Results of one step, from the vectors of spec/95_test_vectors.md (rules R121 to R123). -/
theorem test_shift_immediate :
    [
      { w := 0x0008, nzcv := 0b0010, regs := [(.r1, 0x80000000)], toRegs := [(.r0, 0x80000000)], toNzcv := 0b1010 },
      { w := 0x0048, regs := [(.r1, 0x80000000)], toRegs := [(.r0, 0x0)], toNzcv := 0b0110 },
      { w := 0x0808, regs := [(.r1, 0x80000000)], toRegs := [(.r0, 0x0)], toNzcv := 0b0110 },
      { w := 0x0808, nzcv := 0b0010, regs := [(.r1, 0x7FFFFFFF)], toRegs := [(.r0, 0x0)], toNzcv := 0b0100 },
      { w := 0x1008, regs := [(.r1, 0x80000000)], toRegs := [(.r0, 0xFFFFFFFF)], toNzcv := 0b1010 },
      { w := 0x1108, regs := [(.r1, 0x80000008)], toRegs := [(.r0, 0xF8000000)], toNzcv := 0b1010 }].all
        Vector16.holds = true := by decide +kernel

/-- Results of one step, from the vectors of spec/95_test_vectors.md (rules R126 to R129). -/
theorem test_add_subtract :
    [
      { w := 0x1918, regs := [(.r3, 0xFFFFFFFF), (.r4, 0x1)], toRegs := [(.r0, 0x0)], toNzcv := 0b0110 },
      { w := 0x1918, regs := [(.r3, 0x80000000), (.r4, 0x80000000)], toRegs := [(.r0, 0x0)], toNzcv := 0b0111 },
      { w := 0x1DC1, regs := [(.r0, 0xFFFFFFF9)], toRegs := [(.r1, 0x0)], toNzcv := 0b0110 },
      { w := 0x1F96, regs := [(.r2, 0x6)], toRegs := [(.r6, 0x0)], toNzcv := 0b0110 },
      { w := 0x1A88, regs := [(.r1, 0x80000000), (.r2, 0x1)], toRegs := [(.r0, 0x7FFFFFFF)], toNzcv := 0b0011 },
      { w := 0x1A88, regs := [(.r1, 0x7FFFFFFF), (.r2, 0xFFFFFFFF)], toRegs := [(.r0, 0x80000000)], toNzcv := 0b1001
        }].all Vector16.holds = true := by decide +kernel

/-- Results of one step, from the vectors of spec/95_test_vectors.md (rules R132 to R135). -/
theorem test_immediate :
    [
      { w := 0x2000, nzcv := 0b1011, regs := [(.r0, 0x5)], toRegs := [(.r0, 0x0)], toNzcv := 0b0111 },
      { w := 0x2A3E, regs := [(.r2, 0x3D)], toNzcv := 0b1000 },
      { w := 0x2A3E, regs := [(.r2, 0x80000000)], toNzcv := 0b0011 },
      { w := 0x31FF, regs := [(.r1, 0xFFFFFF01)], toRegs := [(.r1, 0x0)], toNzcv := 0b0110 },
      { w := 0x31FF, regs := [(.r1, 0x7FFFFF01)], toRegs := [(.r1, 0x80000000)], toNzcv := 0b1001 },
      { w := 0x3E91, regs := [(.r6, 0x0)], toRegs := [(.r6, 0xFFFFFF6F)], toNzcv := 0b1000 }].all Vector16.holds =
        true := by decide +kernel

/-- Results of one step, from the vectors of spec/95_test_vectors.md (rules R141, R142, R149, R153, R155, R156). -/
theorem test_logical :
    [
      { w := 0x4008, nzcv := 0b0011, regs := [(.r0, 0xFF00FF00), (.r1, 0xFF00FF0)], toRegs := [(.r0, 0xF000F00)],
        toNzcv := 0b0011 },
      { w := 0x4063, nzcv := 0b0011, regs := [(.r3, 0xFFFFFFFF), (.r4, 0xFFFFFFFF)], toRegs := [(.r3, 0x0)],
        toNzcv := 0b0111 },
      { w := 0x4208, nzcv := 0b0011, regs := [(.r0, 0xF0), (.r1, 0xF)], toNzcv := 0b0111 },
      { w := 0x4208, regs := [(.r0, 0x80000000), (.r1, 0xFFFFFFFF)], toNzcv := 0b1000 },
      { w := 0x4308, nzcv := 0b0011, regs := [(.r0, 0xF0), (.r1, 0x80000000)], toRegs := [(.r0, 0x800000F0)],
        toNzcv := 0b1011 },
      { w := 0x4388, nzcv := 0b0011, regs := [(.r0, 0xFFFFFFFF), (.r1, 0xFFFF)], toRegs := [(.r0, 0xFFFF0000)],
        toNzcv := 0b1011 },
      { w := 0x43C8, nzcv := 0b0011, regs := [(.r1, 0xFFFFFFFF)], toRegs := [(.r0, 0x0)], toNzcv := 0b0111 },
      { w := 0x43C8, regs := [(.r1, 0x0)], toRegs := [(.r0, 0xFFFFFFFF)], toNzcv := 0b1000 }].all Vector16.holds =
        true := by decide +kernel

/-- Results of one step, from the vectors of spec/95_test_vectors.md (rules R143 to R145, R148). -/
theorem test_shift_register :
    [
      { w := 0x4088, nzcv := 0b0010, regs := [(.r0, 0x80000001), (.r1, 0x21)], toRegs := [(.r0, 0x0)],
        toNzcv := 0b0100 },
      { w := 0x4088, nzcv := 0b0010, regs := [(.r0, 0x80000001), (.r1, 0x100)], toRegs := [(.r0, 0x80000001)],
        toNzcv := 0b1010 },
      { w := 0x40C8, regs := [(.r0, 0x80000008), (.r1, 0x20)], toRegs := [(.r0, 0x0)], toNzcv := 0b0110 },
      { w := 0x40C8, nzcv := 0b0010, regs := [(.r0, 0x80000008), (.r1, 0x21)], toRegs := [(.r0, 0x0)],
        toNzcv := 0b0100 },
      { w := 0x4108, regs := [(.r0, 0x80000008), (.r1, 0x4)], toRegs := [(.r0, 0xF8000000)], toNzcv := 0b1010 },
      { w := 0x4108, nzcv := 0b0010, regs := [(.r0, 0x40000000), (.r1, 0xFF)], toRegs := [(.r0, 0x0)],
        toNzcv := 0b0100 },
      { w := 0x41C1, regs := [(.r1, 0x80000001), (.r0, 0x24)], toRegs := [(.r1, 0x18000000)] },
      { w := 0x41C1, regs := [(.r1, 0x80000001), (.r0, 0x20)], toRegs := [(.r1, 0x80000001)], toNzcv := 0b1010
        }].all Vector16.holds = true := by decide +kernel

/-- Results of one step, from the vectors of spec/95_test_vectors.md (rules R146, R147, R150 to R152). -/
theorem test_arithmetic_register :
    [
      { w := 0x4148, nzcv := 0b0010, regs := [(.r0, 0xFFFFFFFF), (.r1, 0x0)], toRegs := [(.r0, 0x0)],
        toNzcv := 0b0110 },
      { w := 0x4148, regs := [(.r0, 0x7FFFFFFF), (.r1, 0x7FFFFFFF)], toRegs := [(.r0, 0xFFFFFFFE)], toNzcv := 0b1001 },
      { w := 0x4188, regs := [(.r0, 0x5), (.r1, 0x5)], toRegs := [(.r0, 0xFFFFFFFF)], toNzcv := 0b1000 },
      { w := 0x4188, regs := [(.r0, 0x0), (.r1, 0xFFFFFFFF)], toRegs := [(.r0, 0x0)], toNzcv := 0b0100 },
      { w := 0x425D, regs := [(.r3, 0x0)], toRegs := [(.r5, 0x0)], toNzcv := 0b0110 },
      { w := 0x425D, regs := [(.r3, 0x80000000)], toRegs := [(.r5, 0x80000000)], toNzcv := 0b1001 },
      { w := 0x42B2, regs := [(.r2, 0x80000000), (.r6, 0x1)], toNzcv := 0b0011 },
      { w := 0x42B2, regs := [(.r2, 0x1), (.r6, 0x2)], toNzcv := 0b1000 },
      { w := 0x42C8, regs := [(.r0, 0x1), (.r1, 0xFFFFFFFF)], toNzcv := 0b0110 },
      { w := 0x42C8, regs := [(.r0, 0x7FFFFFFF), (.r1, 0x1)], toNzcv := 0b1001 }].all Vector16.holds =
        true := by decide +kernel

/-- Results of one step, from the vectors of spec/95_test_vectors.md (rules R172 to R174). -/
theorem test_hi_registers :
    [
      { w := 0x4478, pc := 0x8002, regs := [(.r0, 0x1)], toRegs := [(.r0, 0x8007)] },
      { w := 0x4441, regs := [(.r1, 0x1), (.r8, 0xFFFFFFFF)], toRegs := [(.r1, 0x0)] },
      { w := 0x44AF, pc := 0x8002, regs := [(.r5, 0x101)], toPc := 0x8106 },
      { w := 0x4488, regs := [(.r1, 0x10), (.r8, 0x20)], toRegs := [(.r8, 0x30)] },
      { w := 0x44C8, nzcv := 0b0100, regs := [(.r8, 0x7FFFFFFF), (.r9, 0x1)], toRegs := [(.r8, 0x80000000)],
        toNzcv := 0b0100 },
      { w := 0x4578, regs := [(.r0, 0x8004)], toNzcv := 0b0110 },
      { w := 0x4564, regs := [(.r4, 0x5), (.r12, 0x5)], toNzcv := 0b0110 },
      { w := 0x4580, regs := [(.r8, 0x1), (.r0, 0x2)], toNzcv := 0b1000 },
      { w := 0x4678, pc := 0x8002, toRegs := [(.r0, 0x8006)] },
      { w := 0x468B, regs := [(.r1, 0xDEADBEEF), (.r11, 0x0)], toRegs := [(.r11, 0xDEADBEEF)] },
      { w := 0x46F7, nzcv := 0b1111, regs := [(.r14Svc, 0x9001)], toPc := 0x9000, toNzcv := 0b1111 },
      { w := 0x46C0, regs := [(.r8, 0x1234)], toRegs := [(.r8, 0x1234)] }].all Vector16.holds =
        true := by decide +kernel

/-- Results of one step, from the vectors of spec/95_test_vectors.md (rule R175). -/
theorem test_exchange :
    [
      { w := 0x4708, regs := [(.r1, 0x9001)], toPc := 0x9000 },
      { w := 0x4758, regs := [(.r11, 0x8009)], toPc := 0x8008 }].all Vector16.holds = true := by decide +kernel

/-- Results of one step, from the vectors of spec/95_test_vectors.md (rule R191). -/
theorem test_load_pc :
    [
      { w := 0x4FFF, pc := 0x8002, mem := (0x8400, [0x01, 0x02, 0x03, 0x04]), toRegs := [(.r7, 0x4030201)] },
      { w := 0x4BD3, endian := .big, mem := (0x8350, [0xEF, 0xBE, 0xAD, 0xDE]), toRegs := [(.r3, 0xEFBEADDE)] }].all
        Vector16.holds = true := by decide +kernel

/-- Results of one step, from the vectors of spec/95_test_vectors.md (rules R193 to R201). -/
theorem test_register_offset :
    [
      { w := 0x5193, regs := [(.r3, 0x12345678), (.r2, 0xFFFFFFFC), (.r6, 0x1004)], toMem := (0x1000, [0x78, 0x56,
        0x34, 0x12]) },
      { w := 0x5193, endian := .big, regs := [(.r3, 0x12345678), (.r2, 0x1000), (.r6, 0x10)], toMem := (0x1010,
        [0x12, 0x34, 0x56, 0x78]) },
      { w := 0x5593, regs := [(.r3, 0x12345678), (.r2, 0x1000), (.r6, 0x3)], toMem := (0x1003, [0x78]) },
      { w := 0x580A, endian := .big, regs := [(.r1, 0x1000), (.r0, 0x4)], mem := (0x1004, [0x78, 0x56, 0x34, 0x12]),
        toRegs := [(.r2, 0x78563412)] },
      { w := 0x5DC2, regs := [(.r0, 0x1000), (.r7, 0xFFFFFFFF), (.r2, 0xFFFFFFFF)], mem := (0xFFF, [0x80]),
        toRegs := [(.r2, 0x80)] },
      { w := 0x521C, endian := .big, regs := [(.r4, 0xABCD1234), (.r3, 0x1000), (.r0, 0x2)], toMem := (0x1002,
        [0x12, 0x34]) },
      { w := 0x5AA3, regs := [(.r4, 0x1000), (.r2, 0x2)], mem := (0x1000, [0x11, 0x22, 0x80, 0xFF]),
        toRegs := [(.r3, 0xFF80)] },
      { w := 0x567A, regs := [(.r7, 0x1000), (.r1, 0x3)], mem := (0x1000, [0x11, 0x22, 0x7F, 0x80]),
        toRegs := [(.r2, 0xFFFFFF80)] },
      { w := 0x567A, regs := [(.r7, 0x1000), (.r1, 0x2)], mem := (0x1000, [0x11, 0x22, 0x7F, 0x80]),
        toRegs := [(.r2, 0x7F)] },
      { w := 0x5EA3, endian := .big, regs := [(.r4, 0x1000), (.r2, 0x2)], mem := (0x1000, [0x11, 0x22, 0x80, 0xFF]),
        toRegs := [(.r3, 0xFFFF80FF)] },
      { w := 0x5EA3, regs := [(.r4, 0x1000), (.r2, 0x0)], mem := (0x1000, [0x11, 0x22, 0x80, 0xFF]),
        toRegs := [(.r3, 0x2211)] }].all Vector16.holds = true := by decide +kernel

/-- Results of one step, from the vectors of spec/95_test_vectors.md (rules R211 to R220). -/
theorem test_immediate_offset :
    [
      { w := 0x6001, endian := .big, regs := [(.r0, 0x2000), (.r1, 0xCAFEBABE)], toMem := (0x2000, [0xCA, 0xFE,
        0xBA, 0xBE]) },
      { w := 0x6800, regs := [(.r0, 0x1000)], mem := (0x1000, [0x78, 0x56, 0x34, 0x12]), toRegs := [(.r0,
        0x12345678)] },
      { w := 0x77C1, regs := [(.r0, 0x2001), (.r1, 0x1FF)], toMem := (0x2020, [0xFF]) },
      { w := 0x7FEA, regs := [(.r5, 0x1000), (.r2, 0xFFFFFFFF)], mem := (0x101F, [0xC3]), toRegs := [(.r2, 0xC3)] },
      { w := 0x870E, endian := .big, regs := [(.r6, 0xABCD1234), (.r1, 0x1000)], toMem := (0x1038, [0x12, 0x34]) },
      { w := 0x88BC, endian := .big, regs := [(.r7, 0x1000), (.r4, 0xFFFFFFFF)], mem := (0x1004, [0x34, 0xF2]),
        toRegs := [(.r4, 0x34F2)] },
      { w := 0x947B, endian := .big, regs := [(.r4, 0x1020304), (.r13Svc, 0x4000)], toMem := (0x41EC, [0x01, 0x02,
        0x03, 0x04]) },
      { w := 0x9F01, regs := [(.r13Svc, 0xFFFFFFFC)], mem := (0x0, [0x78, 0x56, 0x34, 0x12]), toRegs := [(.r7,
        0x12345678)] }].all Vector16.holds = true := by decide +kernel

/-- Results of one step, from the vectors of spec/95_test_vectors.md (rules R230 to R234). -/
theorem test_addresses :
    [
      { w := 0xA000, pc := 0x8002, toRegs := [(.r0, 0x8004)] },
      { w := 0xA28F, nzcv := 0b1111, toRegs := [(.r2, 0x8240)], toNzcv := 0b1111 },
      { w := 0xAEFF, regs := [(.r13Svc, 0xFFFFFF00)], toRegs := [(.r6, 0x2FC)] },
      { w := 0xAE35, nzcv := 0b1111, regs := [(.r13Svc, 0x4000)], toRegs := [(.r6, 0x40D4)], toNzcv := 0b1111 },
      { w := 0xB07F, regs := [(.r13Svc, 0xFFFFFF00)], toRegs := [(.r13Svc, 0xFC)] },
      { w := 0xB043, nzcv := 0b1111, regs := [(.r13Svc, 0x4000)], toRegs := [(.r13Svc, 0x410C)], toNzcv := 0b1111 },
      { w := 0xB0FF, regs := [(.r13Svc, 0x100)], toRegs := [(.r13Svc, 0xFFFFFF04)] },
      { w := 0xB09A, nzcv := 0b1111, regs := [(.r13Svc, 0x4000)], toRegs := [(.r13Svc, 0x3F98)], toNzcv := 0b1111
        }].all Vector16.holds = true := by decide +kernel

/-- Results of one step, from the vectors of spec/95_test_vectors.md (rules R241 to R244). -/
theorem test_push_pop :
    [
      { w := 0xB405, endian := .big, regs := [(.r0, 0x11223344), (.r2, 0x55667788), (.r13Svc, 0x4000)],
        toRegs := [(.r13Svc, 0x3FF8)], toMem := (0x3FF8, [0x11, 0x22, 0x33, 0x44, 0x55, 0x66, 0x77, 0x88]) },
      { w := 0xB51F, regs := [(.r0, 0xA0), (.r1, 0xA1), (.r2, 0xA2), (.r3, 0xA3), (.r4, 0xA4), (.r14Svc, 0x8101),
        (.r13Svc, 0x4000)], toRegs := [(.r13Svc, 0x3FE8)], toMem := (0x3FE8, [0xA0, 0x00, 0x00, 0x00, 0xA1, 0x00,
        0x00, 0x00, 0xA2, 0x00, 0x00, 0x00, 0xA3, 0x00, 0x00, 0x00, 0xA4, 0x00, 0x00, 0x00, 0x01, 0x81, 0x00, 0x00])
        },
      { w := 0xB500, regs := [(.r14Svc, 0x8101), (.r13Svc, 0x4)], toRegs := [(.r13Svc, 0x0)], toMem := (0x0, [0x01,
        0x81, 0x00, 0x00]) },
      { w := 0xBC0C, regs := [(.r13Svc, 0x3FF8)], mem := (0x3FF8, [0xFF, 0xFF, 0xFF, 0xFF, 0x00, 0x00, 0x00, 0x00]),
        toRegs := [(.r2, 0xFFFFFFFF), (.r3, 0x0), (.r13Svc, 0x4000)] },
      { w := 0xBD44, regs := [(.r13Svc, 0x3FF0)], mem := (0x3FF0, [0x02, 0x00, 0x00, 0x00, 0x06, 0x00, 0x00, 0x00,
        0x02, 0x90, 0x00, 0x00]), toRegs := [(.r2, 0x2), (.r6, 0x6), (.r13Svc, 0x3FFC)], toPc := 0x9002 },
      { w := 0xBD00, regs := [(.r13Svc, 0xFFFFFFFC)], mem := (0xFFFFFFFC, [0x00, 0x80, 0x00, 0x00]),
        toRegs := [(.r13Svc, 0x0)], toPc := 0x8000 }].all Vector16.holds = true := by decide +kernel

/-- Results of one step, from the vectors of spec/95_test_vectors.md (rules R246 to R248). -/
theorem test_multiple :
    [
      { w := 0xC106, regs := [(.r1, 0x1000), (.r2, 0x22)], toRegs := [(.r1, 0x1008)], toMem := (0x1000, [0x00, 0x10,
        0x00, 0x00, 0x22, 0x00, 0x00, 0x00]) },
      { w := 0xC0F8, regs := [(.r0, 0x1000), (.r3, 0x3), (.r4, 0x4), (.r5, 0x5), (.r6, 0x6), (.r7, 0x7)],
        toRegs := [(.r0, 0x1014)], toMem := (0x1000, [0x03, 0x00, 0x00, 0x00, 0x04, 0x00, 0x00, 0x00, 0x05, 0x00,
        0x00, 0x00, 0x06, 0x00, 0x00, 0x00, 0x07, 0x00, 0x00, 0x00]) },
      { w := 0xC8F8, regs := [(.r0, 0x1000)], mem := (0x1000, [0x03, 0x00, 0x00, 0x00, 0x04, 0x00, 0x00, 0x00, 0x05,
        0x00, 0x00, 0x00, 0x06, 0x00, 0x00, 0x00, 0x07, 0x00, 0x00, 0x00]), toRegs := [(.r0, 0x1014), (.r3, 0x3),
        (.r4, 0x4), (.r5, 0x5), (.r6, 0x6), (.r7, 0x7)] },
      { w := 0xC803, regs := [(.r0, 0x1000)], mem := (0x1000, [0xAA, 0x00, 0x00, 0x00, 0xBB, 0x00, 0x00, 0x00]),
        toRegs := [(.r0, 0xAA), (.r1, 0xBB)] }].all Vector16.holds = true := by decide +kernel

/-- Results of one step, from the vectors of spec/95_test_vectors.md (rules R261 to R267). -/
theorem test_branches_1 :
    [
      { w := 0xD004, nzcv := 0b0100, toPc := 0x800C, toNzcv := 0b0100 },
      { w := 0xD004 },
      { w := 0xD104, toPc := 0x800C },
      { w := 0xD104, nzcv := 0b0100, toNzcv := 0b0100 },
      { w := 0xD280, pc := 0x10, nzcv := 0b0010, toPc := 0xFFFFFF14, toNzcv := 0b0010 },
      { w := 0xD204 },
      { w := 0xD304, toPc := 0x800C },
      { w := 0xD304, nzcv := 0b0010, toNzcv := 0b0010 },
      { w := 0xD404, nzcv := 0b1000, toPc := 0x800C, toNzcv := 0b1000 },
      { w := 0xD404 },
      { w := 0xD504, toPc := 0x800C },
      { w := 0xD504, nzcv := 0b1000, toNzcv := 0b1000 },
      { w := 0xD604, nzcv := 0b0001, toPc := 0x800C, toNzcv := 0b0001 },
      { w := 0xD604 }].all Vector16.holds = true := by decide +kernel

/-- Results of one step, from the vectors of spec/95_test_vectors.md (rules R268 to R274). -/
theorem test_branches_2 :
    [
      { w := 0xD704, toPc := 0x800C },
      { w := 0xD704, nzcv := 0b0001, toNzcv := 0b0001 },
      { w := 0xD804, nzcv := 0b0010, toPc := 0x800C, toNzcv := 0b0010 },
      { w := 0xD804, nzcv := 0b0100, toNzcv := 0b0100 },
      { w := 0xD904, nzcv := 0b0100, toPc := 0x800C, toNzcv := 0b0100 },
      { w := 0xD904, nzcv := 0b0010, toNzcv := 0b0010 },
      { w := 0xDA04, toPc := 0x800C },
      { w := 0xDA04, nzcv := 0b1000, toNzcv := 0b1000 },
      { w := 0xDB04, nzcv := 0b1001, toNzcv := 0b1001 },
      { w := 0xDB04 },
      { w := 0xDC04, nzcv := 0b1001, toPc := 0x800C, toNzcv := 0b1001 },
      { w := 0xDC04, nzcv := 0b1000, toNzcv := 0b1000 },
      { w := 0xDD04, nzcv := 0b1101, toPc := 0x800C, toNzcv := 0b1101 },
      { w := 0xDD04, nzcv := 0b1001, toNzcv := 0b1001 }].all Vector16.holds = true := by decide +kernel

/-- Results of one step, from the vectors of spec/95_test_vectors.md (rule R279). -/
theorem test_branch :
    [
      { w := 0xE7FE, toPc := 0x8000 },
      { w := 0xE400, pc := 0x0, toPc := 0xFFFFF804 }].all Vector16.holds = true := by decide +kernel

/-! ### MUL, BX to ARM state, SWI, BL, and the stops

From the vectors of spec/95_test_vectors.md for rules R154, R175, R277, R301, R281 to R283, R53 to R56, R66, R28,
  R302. -/

/-- The state of a vector with no expectation. -/
def before (w : Nat) (pc : Word) (nzcv : BitVec 4) (regs : List (PReg × Word)) (mem : Nat × List Byte) : State :=
  ({ w := w, pc := pc, nzcv := nzcv, regs := regs, mem := mem } : Vector16).start

/-- One field of the next state, if there is one. -/
def field? {α : Type} (f : State → α) (r : Result) : Option α :=
  match r with
  | .next t => some (f t)
  | _ => none

/-- How a step stops, if it does. -/
def stop? (r : Result) : Option Fault :=
  match r with
  | .fault f => some f
  | _ => none

/-- MUL R0, R7 and MUL R0, R0: the product, N, Z and V; the carry is free. -/
theorem test_multiply :
    field? (fun t => (t.lo .r0, t.cpsr.n, t.cpsr.z, t.cpsr.v, t.pc))
      (step (before 0x4378 0x8000 0b0001 [(.r0, 0xFFFFFFFE), (.r7, 3)] (0, []))) =
        some (0xFFFFFFFA, true, false, true, 0x8002) ∧
    field? (fun t => (t.lo .r0, t.cpsr.n, t.cpsr.z, t.cpsr.v))
      (step (before 0x4340 0x8000 0 [(.r0, 0xFFFFFFFF)] (0, []))) = some (1, false, false, false) := by decide +kernel

/-- BX R11 to 0x00008008 enters ARM state there, and the outcome records the target (rule R300). -/
theorem test_exchange_arm :
    field? (fun t => (t.pc, t.cpsr.t, t.cpsr.mode, t.lastExit))
      (step (before 0x4758 0x8004 0 [(.r11, 0x8008)] (0, []))) =
        some (0x8008, false, .svc, some (.enterArmState 0x8008)) := by decide +kernel

/-- SWI 18 at 0x00008000: R14_svc, SPSR_svc, mode, T, I, pc and the recorded Value8 (rules R300, R301). -/
theorem test_swi :
    let s := before 0xDF12 0x8000 0b1111 [] (0, [])
    field? (fun t => (t.regs.get .r14Svc, t.spsr.svc, t.cpsr.mode, t.cpsr.t, t.cpsr.i, t.pc)) (step s) =
      some (0x8002, s.cpsr, .svc, false, true, 8) ∧
    field? (fun t => t.lastExit) (step s) = some (some (.softwareInterrupt 18)) := by decide +kernel

/-- From User mode SWI writes R14_svc and leaves the R14 of User mode. -/
theorem test_swi_from_user :
    let s := before 0xDF00 0x8000 0 [(.r14Usr, 7)] (0, [])
    field? (fun t => (t.regs.get .r14Svc, t.regs.get .r14Usr, t.spsr.svc.mode, t.cpsr.mode))
      (step { s with cpsr := { s.cpsr with mode := .usr, i := false } }) = some (0x8002, 7, .usr, .svc) := by
  decide +kernel

/-- The halves of BL: F123 FA2B at 0x00008000, F7FF FFFE at 0, and F801 alone, whose sum wraps. -/
theorem test_link :
    [(0xF123, 0x8000, 0xAAAAAAAA, 0x8002, 0x0012B004), (0xFA2B, 0x8002, 0x0012B004, 0x0012B45A, 0x8005),
      (0xF7FF, 0, 0xAAAAAAAA, 2, 0xFFFFF004), (0xFFFE, 2, 0xFFFFF004, 0, 5),
      (0xF801, 0x8000, 0xFFFFFFFE, 0, 0x8003)].all
      (fun (x : Nat × Word × Word × Word × Word) =>
        field? (fun t => (t.pc, t.lr)) (step (before x.1 x.2.1 0 [(.r14Svc, x.2.2.1)] (0, []))) ==
          some (x.2.2.2.1, x.2.2.2.2)) = true := by decide +kernel

/-- What stops whatever the state's memory: undefined words, BX, empty lists, STMIA with the base not lowest. -/
theorem test_stops_by_word :
    [(0x4788, Fault.undefinedInstruction 0x4788 0x8000), (0xDE00, .undefinedInstruction 0xDE00 0x8000),
      (0xB3FF, .undefinedInstruction 0xB3FF 0x8000), (0xEFFF, .undefinedInstruction 0xEFFF 0x8000),
      (0x4709, .unpredictable .bxBitsNonzero 0x8000), (0x4710, .unpredictable .bxArmTargetUnaligned 0x8000),
      (0xB400, .unpredictable .emptyRegisterList 0x8000), (0xBC00, .unpredictable .emptyRegisterList 0x8000),
      (0xC000, .unpredictable .emptyRegisterList 0x8000), (0xCB00, .unpredictable .emptyRegisterList 0x8000),
      (0xC206, .unpredictable .stmBaseNotLowest 0x8000)].all
      (fun (x : Nat × Fault) =>
        stop? (step (before x.1 0x8000 0 [(.r1, 0x9001), (.r2, 0x9002)] (0, []))) == some x.2) = true := by
  decide +kernel

/-- BX PC at an address that is no multiple of 4, and an untaken branch at the end of the address space. -/
theorem test_stops_by_pc :
    stop? (step (before 0x4778 0x8002 0 [] (0, []))) = some (.unpredictable .bxPcUnaligned 0x8002) ∧
    stop? (step (before 0xD0FE 0xFFFFFFFE 0 [] (0, []))) =
      some (.unpredictable (.pcWrap (before 0xD0FE 0xFFFFFFFE 0 [] (0, []))) 0xFFFFFFFE) := by decide +kernel

/-- MOV R0, #1 (the spec's vector) and STRB R1, [R2] at the end of the address space: the register and the byte are
written before the stop, and the pc stays (rules R28, R304). -/
theorem test_wrap_keeps_writes :
    stop? (step (before 0x2001 0xFFFFFFFE 0 [] (0, []))) =
      some (.unpredictable (.pcWrap (before 0x2001 0xFFFFFFFE 0 [(.r0, 1)] (0, []))) 0xFFFFFFFE) ∧
    stop? (step (before 0x7011 0xFFFFFFFE 0 [(.r1, 0x1A5), (.r2, 0x9000)] (0, []))) =
      some (.unpredictable (.pcWrap (before 0x7011 0xFFFFFFFE 0 [(.r1, 0x1A5), (.r2, 0x9000)] (0x9000, [0xA5])))
        0xFFFFFFFE) := by decide +kernel

/-- STR at an odd address, in the code range, and not admitted: alignment first, then the code range. -/
theorem test_stops_by_access :
    let s := fun a => before 0x6001 0x8000 0 [(.r0, a)] (0, [])
    let code := [AddrRange.mk 0x8000 0x801F]
    stop? (step { s 0x801E with codeRange := code }) = some (.alignmentFault 0x801E .word 0x8000) ∧
    stop? (step { s 0x8010 with codeRange := code }) = some (.unpredictable .storeToCode 0x8000) ∧
    field? State.pc (step { s 0x8020 with codeRange := code }) = some 0x8002 ∧
    stop? (step { s 0x2000 with memAdmit := [⟨0, 0xFFFFFFFF, [.half], [.fetch]⟩] }) =
      some (.dataAbort 0x2000 .word .write 0x8000) ∧
    stop? (step { s 0x2000 with memAdmit := [] }) = some (.prefetchAbort 0x8000) := by decide +kernel

/-! ### Well-formedness

Each check refuses a term that is ill-formed and lets one through that is not (rules R175, R113, R248, R302). -/

theorem test_wellFormed_bx :
    (Instr.bxLo .r1 1).wellFormed = false ∧ (Instr.bxHi .r11 4).wellFormed = false ∧
      (Instr.bxLo .r1 0).wellFormed = true ∧ (Instr.bxHi .r11 0).wellFormed = true := by decide +kernel

theorem test_wellFormed_list :
    (Instr.push 0).wellFormed = false ∧ (Instr.pop 0).wellFormed = false ∧ (Instr.stmia .r0 0).wellFormed = false ∧
      (Instr.ldmia .r0 0).wellFormed = false ∧ (Instr.pushLr 0).wellFormed = true ∧
      (Instr.popPc 0).wellFormed = true ∧ (Instr.push 1).wellFormed = true := by decide +kernel

theorem test_wellFormed_base :
    (Instr.stmia .r1 0b11).wellFormed = false ∧ (Instr.stmia .r1 0b110).wellFormed = true ∧
      (Instr.stmia .r1 0b100).wellFormed = true ∧ (Instr.ldmia .r1 0b11).wellFormed = true := by decide +kernel

theorem test_wellFormed_undefined :
    (Instr.undefAddLoLo 8).wellFormed = false ∧ (Instr.undefBxH1 8).wellFormed = false ∧
      (Instr.undefCond1110 0).wellFormed = false ∧ (Instr.undefE8EF 0).wellFormed = false := by decide +kernel

/-! ### The host's two readings of a word -/

theorem test_table_word :
    decodeTableWord 16 0x0EEA = some (.lsrImm .r2 .r5 27) ∧ decodeTableWord 16 0xE7FE = some (.b 0x7FE) ∧
      decodeTableWord 16 0xF123 = some (.blHigh 0x123) := by decide +kernel

/-- LSR R2, R5, #27 placed in the state after reset runs as its first instruction. -/
theorem test_first_instruction :
    field? (fun t => (t.pc, t.cpsr.z)) (step (State.reset.withFetchWord 16 0x0EEA)) = some (2, true) := by
  decide +kernel

/-! ### The hypotheses of the statements can be met

For each statement with hypotheses, a small state and operands that meet them together, for each of its clauses. -/

/-- A state in Supervisor mode with word addresses, small numbers and large ones in registers. -/
def base : State :=
  setAll State.reset
    [(.r0, 0x1000), (.r1, 0x2000), (.r2, 2), (.r3, 0xFFFFFFFF), (.r4, 0x80000000), (.r5, 0x1001), (.r6, 0x1002),
      (.r8, 0x12345678), (.r13Svc, 0x4000), (.r14Svc, 0x8101)] (0x1000, [0x78, 0x56, 0x34, 0x92]) 0x8000 0b1010

/-- `base` at the last halfword from which an instruction can go on. -/
def high : State := { base with pc := 0xFFFFFFFC }

/-- `base` at the last halfword of the address space. -/
def top : State := { base with pc := 0xFFFFFFFE }

/-- `base` on a platform that admits fetches only. -/
def closed : State :=
  { base with memAdmit := [{ first := 0, last := 0xFFFFFFFF, widths := [.half], kinds := [.fetch] }] }

/-- `base` with the bytes 0x1000 to 0x1003 in the code range. -/
def coded : State := { base with codeRange := [{ first := 0x1000, last := 0x1003 }] }

theorem test_base_readable {a : Word} {w : Width} (ha : a.toNat % w.bytes = 0) (h : base.admits a w .read = true) :
    base.Readable a w := ⟨ha, h⟩

theorem test_base_writable {a : Word} {w : Width} (ha : a.toNat % w.bytes = 0) (h : base.admits a w .write = true) :
    base.Writable a w := ⟨ha, rfl, h⟩

/-- The eight words from `a` up can be read and written in `base`. -/
theorem test_base_eight {a : Word} (h : [0, 1, 2, 3, 4, 5, 6, 7, 8].all (fun k => decide ((slot a k).toNat % 4 = 0) &&
      base.admits (slot a k) .word .read && base.admits (slot a k) .word .write) = true) :
    ∀ k, k < 9 → base.Readable (slot a k) .word ∧ base.Writable (slot a k) .word := by
  intro k hk
  have := List.all_eq_true.1 h k (by interval_cases k <;> decide)
  simp only [Bool.and_eq_true, decide_eq_true_eq] at this
  exact ⟨⟨this.1.1, this.1.2⟩, ⟨this.1.1, rfl, this.2⟩⟩

/-- The ends of every block of undefined words, and words next to them that are none. -/
theorem test_witness_UndefinedWords :
    [0x4400#16, 0x443F, 0x4500, 0x453F, 0x4600, 0x463F, 0x4780, 0x47FF, 0xB100, 0xB3FF, 0xB600, 0xBBFF, 0xBE00,
      0xBFFF, 0xDE00, 0xDEFF, 0xE800, 0xEFFF].all (fun w => (decode w).isUndefined) = true ∧
    [0x43FF#16, 0x4440, 0x44FF, 0x4540, 0x45FF, 0x4640, 0x477F, 0x4800, 0xB0FF, 0xB400, 0xB5FF, 0xBC00, 0xBDFF,
      0xC000, 0xDDFF, 0xDF00, 0xE7FF, 0xF000].all (fun w => !(decode w).isUndefined) = true := by decide +kernel

theorem test_witness_StepRunsDecoded :
    let s := base.withFetchWord 16 0x1C01
    let u := { top with endian := .big }.withFetchWord 16 0x1C01
    (s.cpsr.t = true ∧ s.pc.toNat % 2 = 0 ∧ s.admits s.pc .half .fetch = true ∧ s.mem.read s.pc.toNat = 0x01#8 ∧
      s.mem.read (s.pc.toNat + 1) = 0x1C#8 ∧ decode (0x1C#8 ++ 0x01#8) = .addImm3 .r1 .r0 0) ∧
    (u.cpsr.t = true ∧ u.pc.toNat % 2 = 0 ∧ u.admits u.pc .half .fetch = true ∧ u.mem.read u.pc.toNat = 0x1C#8 ∧
      u.mem.read (u.pc.toNat + 1) = 0x01#8) := by decide +kernel

theorem test_witness_FormatWordsOneToSeven :
    (((0b00000#5 ++ 31#5 ++ LoReg.r7.toBits ++ LoReg.r0.toBits : Half), Instr.lslImm .r0 .r7 31) : Half × Instr) ∈
      [((0b00000#5 ++ 31#5 ++ LoReg.r7.toBits ++ LoReg.r0.toBits : Half), Instr.lslImm .r0 .r7 31),
        (0b00001#5 ++ 31#5 ++ LoReg.r7.toBits ++ LoReg.r0.toBits, .lsrImm .r0 .r7 31)] := by decide +kernel

theorem test_witness_FormatWordsNineToNineteen :
    (((0b11110#5 ++ 0x7FF#11 : Half), Instr.blHigh 0x7FF) : Half × Instr) ∈
      [((0b11110#5 ++ 0x7FF#11 : Half), Instr.blHigh 0x7FF), (0b11111#5 ++ 0x7FF#11, .blLow 0x7FF)] := by decide +kernel

theorem test_witness_PcWrapStops :
    2 ^ 32 ≤ top.pc.toNat + 2 ∧
    (∃ u, exec (.pushLr 0xFF) (top.setPc 0x8000) = .next u ∧ kindOf (.pushLr 0xFF) ∈ [Kind.load, .storeMany]) ∧
    (∃ u, exec (.ldrImm .r1 .r0 0) (top.setPc 0x8000) = .next u ∧ kindOf (.ldrImm .r1 .r0 0) ∈ [Kind.load, .store]) ∧
    kindOf (.lslImm .r0 .r1 0) ∈ [Kind.shift, .arithmetic, .logical, .multiply, .hiCompare, .address] ∧
    hiPReg top.cpsr.mode .r8 = some .r8 ∧ hiPReg top.cpsr.mode .r14 = some .r14Svc ∧
    top.admits (BitVec.ofNat 32 ((pcWordBase top.pc).toNat + 4 * (255#8).toNat)) .word .read = true ∧
    (Cond.eq.holds top.cpsr = false ∧ Cond.ge.holds top.cpsr = false) ∧ ∃ t, exec (.movHiLo .r15 .r0) top = .next t :=
  ⟨by decide +kernel, ⟨_, rfl, by decide +kernel⟩, ⟨_, rfl, by decide +kernel⟩, by decide +kernel, by decide +kernel,
    by decide +kernel, by decide +kernel, by decide +kernel, _, rfl⟩

theorem test_witness_ShiftImmediateResults : base.pc.toNat + 2 < 2 ^ 32 ∧ high.pc.toNat + 2 < 2 ^
  32 := by decide +kernel

theorem test_witness_AddSubtractResults : base.pc.toNat + 2 < 2 ^ 32 ∧ high.pc.toNat + 2 < 2 ^ 32 := by decide +kernel

theorem test_witness_ImmediateResults : base.pc.toNat + 2 < 2 ^ 32 ∧ high.pc.toNat + 2 < 2 ^ 32 := by decide +kernel

theorem test_witness_LogicalResults : base.pc.toNat + 2 < 2 ^ 32 ∧ high.pc.toNat + 2 < 2 ^ 32 := by decide +kernel

theorem test_witness_ShiftRegisterResults : base.pc.toNat + 2 < 2 ^ 32 ∧ high.pc.toNat + 2 < 2 ^ 32 := by decide +kernel

theorem test_witness_ArithmeticRegisterResults : base.pc.toNat + 2 < 2 ^ 32 ∧ high.pc.toNat + 2 < 2 ^
  32 := by decide +kernel

theorem test_witness_MultiplyResult : base.pc.toNat + 2 < 2 ^ 32 ∧ high.pc.toNat + 2 < 2 ^ 32 := by decide +kernel

theorem test_witness_HiAddResults :
    high.pc.toNat + 2 < 2 ^ 32 ∧ hiPReg high.cpsr.mode .r8 = some .r8 ∧ hiPReg high.cpsr.mode .r14 = some .r14Svc := by
  decide

theorem test_witness_HiCompareResults : base.pc.toNat + 2 < 2 ^ 32 ∧ high.pc.toNat + 2 < 2 ^ 32 := by decide +kernel

theorem test_witness_HiMoveResults :
    high.pc.toNat + 2 < 2 ^ 32 ∧ hiPReg high.cpsr.mode .r8 = some .r8 ∧ hiPReg high.cpsr.mode .r14 = some .r14Svc := by
  decide

theorem test_witness_BranchExchangeResults :
    (5#3 ≠ 0) ∧ (base.lo .r5).toNat % 2 = 1 ∧ (base.lo .r0).toNat % 4 = 0 ∧ (base.lo .r6).toNat % 4 = 2 ∧
      HiReg.r8 ≠ .r15 ∧ (base.hi .r8).toNat % 4 = 0 ∧ (base.hi .r14).toNat % 2 = 1 ∧ base.pc.toNat % 4 = 0 ∧
      top.pc.toNat % 4 = 2 := by decide +kernel

theorem test_witness_LoadPcResult :
    closed.admits (BitVec.ofNat 32 ((pcWordBase closed.pc).toNat + 4 * (255#8).toNat)) .word .read = false ∧
    high.admits (BitVec.ofNat 32 ((pcWordBase high.pc).toNat + 4 * (0#8).toNat)) .word .read = true ∧
    high.pc.toNat + 2 < 2 ^ 32 := by decide +kernel

theorem test_witness_StoreRegisterResults :
    (Instr.strReg .r3 .r0 .r7, Width.word) ∈
      [(Instr.strReg .r3 .r0 .r7, Width.word), (.strbReg .r3 .r0 .r7, .byte), (.strhReg .r3 .r0 .r7, .half)] ∧
    (base.mem.wf = true ∧ base.Writable (base.regAddr .r0 .r7) .word ∧ base.pc.toNat + 2 < 2 ^ 32) ∧
    (base.regAddr .r0 .r2).toNat % Width.word.bytes ≠ 0 ∧
    ((coded.regAddr .r0 .r7).toNat % Width.word.bytes = 0 ∧ coded.touchesCode (coded.regAddr .r0 .r7) .word = true) ∧
    ((closed.regAddr .r0 .r7).toNat % Width.word.bytes = 0 ∧ closed.touchesCode (closed.regAddr .r0 .r7) .word = false ∧
      closed.admits (closed.regAddr .r0 .r7) .word .write = false) :=
  ⟨by decide +kernel, ⟨by decide +kernel, test_base_writable (by decide +kernel) (by decide +kernel),
    by decide +kernel⟩, by decide +kernel, by decide +kernel, by decide +kernel⟩

theorem test_witness_LoadRegisterResults :
    let a := BitVec.ofNat 32 ((base.lo .r0).toNat + (base.lo .r7).toNat)
    (Instr.ldshReg .r3 .r0 .r7, Width.half, BitVec.ofInt 32 (BitVec.ofNat 16 (base.value a .half)).toInt) ∈
      [(Instr.ldrReg .r3 .r0 .r7, Width.word, BitVec.ofNat 32 (base.value a .word)),
        (.ldrbReg .r3 .r0 .r7, .byte, BitVec.ofNat 32 (base.value a .byte)),
        (.ldrhReg .r3 .r0 .r7, .half, BitVec.ofNat 32 (base.value a .half)),
        (.ldsbReg .r3 .r0 .r7, .byte, BitVec.ofInt 32 (BitVec.ofNat 8 (base.value a .byte)).toInt),
        (.ldshReg .r3 .r0 .r7, .half, BitVec.ofInt 32 (BitVec.ofNat 16 (base.value a .half)).toInt)] ∧
    (base.Readable (base.regAddr .r0 .r7) .half ∧ base.pc.toNat + 2 < 2 ^ 32) ∧
    (base.regAddr .r0 .r5).toNat % Width.half.bytes ≠ 0 ∧
    ((closed.regAddr .r0 .r7).toNat % Width.half.bytes = 0 ∧ closed.admits (closed.regAddr .r0 .r7) .half .read =
      false) :=
  ⟨by simp, ⟨test_base_readable (by decide +kernel) (by decide +kernel), by decide +kernel⟩, by decide +kernel,
    by decide +kernel⟩

theorem test_witness_StoreImmediateResults :
    (Instr.strSp .r3 255, Width.word, base.spAddr 255) ∈
      [(Instr.strImm .r3 .r0 31, Width.word, base.immAddr .r0 (wordOffset 31#5)),
        (.strbImm .r3 .r0 31, .byte, base.immAddr .r0 (byteOffset 31#5)),
        (.strhImm .r3 .r0 31, .half, base.immAddr .r0 (halfOffset 31#5)), (.strSp .r3 255, .word, base.spAddr 255)] ∧
    (base.mem.wf = true ∧ base.Writable (base.spAddr 255) .word ∧ base.pc.toNat + 2 < 2 ^ 32) ∧
    (base.immAddr .r5 (wordOffset 31#5)).toNat % Width.word.bytes ≠ 0 ∧
    ((coded.immAddr .r0 (wordOffset 0#5)).toNat % Width.word.bytes = 0 ∧
      coded.touchesCode (coded.immAddr .r0 (wordOffset 0#5)) .word = true) ∧
    ((closed.immAddr .r0 (wordOffset 0#5)).toNat % Width.word.bytes = 0 ∧
      closed.touchesCode (closed.immAddr .r0 (wordOffset 0#5)) .word = false ∧
      closed.admits (closed.immAddr .r0 (wordOffset 0#5)) .word .write = false) :=
  ⟨by simp, ⟨by decide +kernel, test_base_writable (by decide +kernel) (by decide +kernel), by decide +kernel⟩,
    by decide +kernel, by decide +kernel,
    by decide +kernel⟩

theorem test_witness_LoadImmediateResults :
    (Instr.ldrhImm .r3 .r0 31, Width.half, BitVec.ofNat 32 ((base.lo .r0).toNat + 2 * (31#5).toNat)) ∈
      [(Instr.ldrImm .r3 .r0 31, Width.word, BitVec.ofNat 32 ((base.lo .r0).toNat + 4 * (31#5).toNat)),
        (.ldrbImm .r3 .r0 31, .byte, BitVec.ofNat 32 ((base.lo .r0).toNat + (31#5).toNat)),
        (.ldrhImm .r3 .r0 31, .half, BitVec.ofNat 32 ((base.lo .r0).toNat + 2 * (31#5).toNat)),
        (.ldrSp .r3 255, .word, BitVec.ofNat 32 (base.sp.toNat + 4 * (255#8).toNat))] ∧
    (base.Readable (base.immAddr .r0 (halfOffset 31#5)) .half ∧ base.pc.toNat + 2 < 2 ^ 32) ∧
    (base.immAddr .r5 (halfOffset 31#5)).toNat % Width.half.bytes ≠ 0 ∧
    ((closed.immAddr .r0 (halfOffset 31#5)).toNat % Width.half.bytes = 0 ∧
      closed.admits (closed.immAddr .r0 (halfOffset 31#5)) .half .read = false) :=
  ⟨by simp, ⟨test_base_readable (by decide +kernel) (by decide +kernel), by decide +kernel⟩, by decide +kernel,
    by decide +kernel⟩

theorem test_witness_AccessChecks :
    (0x1001#32).toNat % Width.half.bytes ≠ 0 ∧ (0x1000#32).toNat % Width.word.bytes = 0 ∧
      closed.admits 0x1000 .word .read = false ∧ base.admits 0x1000 .word .read = true ∧
      coded.touchesCode 0x1000 .word = true ∧ coded.touchesCode 0x1003 .byte = true ∧
      coded.touchesCode 0x1004 .word = false ∧ coded.touchesCode 0xFFC .word = false ∧
      closed.touchesCode 0x1000 .word = false ∧ closed.admits 0x1000 .word .write = false ∧
      base.touchesCode 0x1000 .word = false ∧ base.admits 0x1000 .word .write = true ∧ base.mem.wf = true ∧
      (base.cpsr.t = true ∧ base.pc.toNat % 2 = 0 ∧ { base with memAdmit := [] }.admits base.pc .half .fetch =
        false) := by
  decide +kernel

theorem test_witness_ByteOrderOfAccesses :
    (base.mem.wf = true ∧ (0xFFFFFFFC#32).toNat % Width.word.bytes = 0 ∧ 3 < Width.word.bytes) ∧
      (∃ r, base.memRead 0x1000 .word = .ok r) ∧ (∃ r, base.fetch = .ok r) ∧
      ∃ t, exec (.lslImm .r0 .r1 0) base = .next t :=
  ⟨by decide +kernel, ⟨_, rfl⟩, ⟨_, rfl⟩, _, rfl⟩

theorem test_witness_ReadReturnsLastWrite :
    base.mem.wf = true ∧ ∃ t, base.memWrite 0x1000 .word 5 = .ok t ∧ ∃ r, t.memRead 0x1000 .word = .ok r :=
  ⟨by decide +kernel, _, rfl, _, rfl⟩

theorem test_witness_MemoryCanonical : base.mem.wf = true ∧ 0xFFFFFFFF < 2 ^ 32 ∧ ∀ x, base.mem.read x =
  base.mem.read x :=
  ⟨by decide +kernel, by decide +kernel, fun _ => rfl⟩

theorem test_witness_AddressResults : base.pc.toNat + 2 < 2 ^ 32 ∧ high.pc.toNat + 2 < 2 ^ 32 := by decide +kernel

theorem test_witness_PushResults :
    (0xFF#8 ≠ 0 ∧ base.mem.wf = true ∧ base.pc.toNat + 2 < 2 ^ 32 ∧
      (∀ k, k < (listRegs 0xFF).length → base.Writable (slot (base.pushStart (listRegs 0xFF).length) k) .word)) ∧
    (∀ k, k < (listRegs 0).length + 1 → base.Writable (slot (base.pushStart ((listRegs 0).length + 1)) k) .word) ∧
    (∀ k, k < (listRegs 0xFF).length + 1 → base.Writable (slot (base.pushStart ((listRegs 0xFF).length + 1)) k) .word) ∧
    (0 < (listRegs 1).length ∧ (∀ j, j < 0 → closed.Writable (slot (closed.pushStart 1) j) .word) ∧
      closed.admits (slot (closed.pushStart 1) 0) .word .write = false) :=
  ⟨⟨by decide +kernel, by decide +kernel, by decide +kernel, fun k hk => (test_base_eight (by decide +kernel) k
    (Nat.lt_of_lt_of_le hk (by decide +kernel))).2⟩,
    fun k hk => (test_base_eight (by decide +kernel) k (Nat.lt_of_lt_of_le hk (by decide +kernel))).2,
    fun k hk => (test_base_eight (by decide +kernel) k (Nat.lt_of_lt_of_le hk (by decide +kernel))).2,
    by decide +kernel, fun _ hj => absurd hj (Nat.not_lt_zero _), by decide +kernel⟩

theorem test_witness_PopResults :
    (0xFF#8 ≠ 0 ∧ (∀ k, k < (listRegs 0xFF).length → base.Readable (slot base.sp k) .word) ∧
      base.pc.toNat + 2 < 2 ^ 32) ∧
    (0 < (listRegs 1).length ∧ (∀ j, j < 0 → closed.Readable (slot closed.sp j) .word) ∧
      closed.admits (slot closed.sp 0) .word .read = false) :=
  ⟨⟨by decide +kernel, fun k hk => (test_base_eight (by decide +kernel) k (Nat.lt_of_lt_of_le hk
    (by decide +kernel))).1, by decide +kernel⟩,
    by decide +kernel, fun _ hj => absurd hj (Nat.not_lt_zero _), by decide +kernel⟩

theorem test_witness_PopPcResults :
    (∀ k, k < (listRegs 0).length + 1 → base.Readable (slot base.sp k) .word) ∧
    (∀ k, k < (listRegs 0xFF).length + 1 → base.Readable (slot base.sp k) .word) ∧
    (0 < (listRegs 0).length + 1 ∧ (∀ j, j < 0 → closed.Readable (slot closed.sp j) .word) ∧
      closed.admits (slot closed.sp 0) .word .read = false) :=
  ⟨fun k hk => (test_base_eight (by decide +kernel) k (Nat.lt_of_lt_of_le hk (by decide +kernel))).1,
    fun k hk => (test_base_eight (by decide +kernel) k (Nat.lt_of_lt_of_le hk (by decide +kernel))).1,
    by decide +kernel, fun _ hj => absurd hj (Nat.not_lt_zero _), by decide +kernel⟩

theorem test_witness_StoreMultipleResults :
    (LoReg.r1 ∈ listRegs 0b11 ∧ ∃ r ∈ listRegs 0b11, r.toBits.toNat < LoReg.r1.toBits.toNat) ∧
    (0xFF#8 ≠ 0 ∧ ¬ (LoReg.r0 ∈ listRegs 0xFF ∧ ∃ r ∈ listRegs 0xFF, r.toBits.toNat < LoReg.r0.toBits.toNat) ∧
      base.mem.wf = true ∧ (∀ k, k < (listRegs 0xFF).length → base.Writable (slot (base.lo .r0) k) .word) ∧
      base.pc.toNat + 2 < 2 ^ 32) ∧
    (0 < (listRegs 1).length ∧ (∀ j, j < 0 → closed.Writable (slot (closed.lo .r0) j) .word) ∧
      closed.admits (slot (closed.lo .r0) 0) .word .write = false) :=
  ⟨by decide +kernel, ⟨by decide +kernel, by decide +kernel, by decide +kernel,
      fun k hk => (test_base_eight (by decide +kernel) k (Nat.lt_of_lt_of_le hk (by decide +kernel))).2,
        by decide +kernel⟩,
    by decide +kernel, fun _ hj => absurd hj (Nat.not_lt_zero _), by decide +kernel⟩

theorem test_witness_LoadMultipleResults :
    (0xFE#8 ≠ 0 ∧ (∀ k, k < (listRegs 0xFE).length → base.Readable (slot (base.lo .r0) k) .word) ∧
      base.pc.toNat + 2 < 2 ^ 32 ∧ LoReg.r0 ∉ listRegs 0xFE) ∧
    (0 < (listRegs 1).length ∧ (∀ j, j < 0 → closed.Readable (slot (closed.lo .r0) j) .word) ∧
      closed.admits (slot (closed.lo .r0) 0) .word .read = false) :=
  ⟨⟨by decide +kernel, fun k hk => (test_base_eight (by decide +kernel) k (Nat.lt_of_lt_of_le hk
    (by decide +kernel))).1, by decide +kernel, by decide +kernel⟩,
    by decide +kernel, fun _ hj => absurd hj (Nat.not_lt_zero _), by decide +kernel⟩

theorem test_witness_PushThenPopRestores :
    base.mem.wf = true ∧ (∃ t, exec (.push 0xFF) base = .next t) ∧
      (∀ k, k < (listRegs 0xFF).length → base.Readable (slot (base.pushStart (listRegs 0xFF).length) k) .word) ∧
      base.pc.toNat + 4 < 2 ^ 32 :=
  ⟨by decide +kernel, ⟨_, rfl⟩, fun k hk => (test_base_eight (by decide +kernel) k (Nat.lt_of_lt_of_le hk
    (by decide +kernel))).1, by decide +kernel⟩

theorem test_witness_FlagBranchResults :
    let off := 0x80#8
    let p := base.cpsr
    let rows := [(0b0000#4, Instr.beq off, p.z), (0b0001#4, .bne off, !p.z), (0b0010#4, .bcs off, p.c),
      (0b0011#4, .bcc off, !p.c), (0b0100#4, .bmi off, p.n), (0b0101#4, .bpl off, !p.n), (0b0110#4, .bvs off, p.v)]
    (0b0000#4, Instr.beq off, false) ∈ rows ∧ (0b0100#4, Instr.bmi off, true) ∈ rows ∧ base.pc.toNat + 2 < 2 ^ 32 := by
  decide +kernel

theorem test_witness_CompareBranchResults :
    let off := 0x7F#8
    let p := base.cpsr
    let rows := [(0b0111#4, Instr.bvc off, !p.v), (0b1000#4, .bhi off, p.c && !p.z), (0b1001#4, .bls off, !p.c || p.z),
      (0b1010#4, .bge off, p.n == p.v), (0b1011#4, .blt off, p.n != p.v), (0b1100#4, .bgt off, !p.z && p.n == p.v),
      (0b1101#4, .ble off, p.z || p.n != p.v)]
    (0b1010#4, Instr.bge off, false) ∈ rows ∧ (0b1101#4, Instr.ble off, true) ∈ rows ∧ base.pc.toNat + 2 < 2 ^ 32 := by
  decide +kernel

theorem test_witness_BranchAfterCompare : ∃ t, exec (.cmpReg .r3 .r4) base = .next t := ⟨_, rfl⟩

theorem test_witness_LinkHalvesResults : base.pc.toNat + 2 < 2 ^ 32 ∧ high.pc.toNat + 2 < 2 ^ 32 := by decide +kernel

theorem test_witness_LinkPairCalls :
    high.pc.toNat % 2 = 0 ∧ high.pc.toNat + 2 < 2 ^ 32 ∧
      ∀ d ∈ [(-4194304 : Int), -2, 0, 4194302], d % 2 = 0 ∧ -4194304 ≤ d ∧ d ≤ 4194302 := by decide +kernel

theorem test_witness_ReturnUndoesSwi :
    ∃ t, exec (.swi 18) base = .next t ∧ t.cpsr.mode = .svc ∧ t.regs.get .r14Svc = t.regs.get .r14Svc ∧
      t.spsr.svc = t.spsr.svc := ⟨_, rfl, rfl, rfl, rfl⟩

theorem test_witness_RegistersReadBack :
    LoReg.r1 ≠ .r0 ∧ HiReg.r14 ≠ .r13 ∧ hiPReg base.cpsr.mode .r13 = some .r13Svc ∧
      hiPReg base.cpsr.mode .r8 = some .r8 := by decide +kernel

theorem test_witness_StepKeepsInvariant :
    RunInv (base.withFetchWord 16 0xE7FE) ∧ (∃ t, step (base.withFetchWord 16 0xE7FE) = .next t) ∧ RunInv base :=
  ⟨⟨by decide +kernel, fun _ => by decide +kernel, fun h => absurd h (by decide +kernel)⟩, ⟨_, rfl⟩,
    ⟨by decide +kernel, fun _ => by decide +kernel, fun h => absurd h (by decide +kernel)⟩⟩

theorem test_witness_ResetValues : aligned 0xFFFFFFFC .word = true ∧ aligned 0xFFFFFFFF .byte =
  true := by decide +kernel

theorem test_witness_ModeChangesOnlyBySwi :
    (∃ t, exec (.swi 0) base = .next t) ∧ ∃ t, exec (.movImm .r0 1) base = .next t ∧ kindOf (.movImm .r0 1) ≠ .swi :=
  ⟨⟨_, rfl⟩, _, rfl, by decide +kernel⟩

theorem test_witness_StateChangesOnlyBySwiAndBx :
    (∃ t, exec (.swi 0) base = .next t) ∧ (∃ t, exec (.bxLo .r5 0) base = .next t) ∧
      (∃ t, exec (.bxLo .r0 0) base = .next t) ∧ (∃ t, exec (.bxHi .r8 0) base = .next t) ∧
      (∃ t, exec (.bxHi .r14 0) base = .next t) ∧ (∃ t, exec (.movImm .r0 1) base = .next t) ∧
      ∃ u, step (base.withFetchWord 16 0xE7FE) = .next u :=
  ⟨⟨_, rfl⟩, ⟨_, rfl⟩, ⟨_, rfl⟩, ⟨_, rfl⟩, ⟨_, rfl⟩, ⟨_, rfl⟩, _, rfl⟩

theorem test_witness_FlagsWrittenByKind :
    (∃ t, exec (.andReg .r0 .r3) base = .next t ∧ kindOf (.andReg .r0 .r3) = .logical) ∧
      (∃ t, exec (.mulReg .r0 .r3) base = .next t ∧ kindOf (.mulReg .r0 .r3) ∈ [Kind.shift, .multiply]) ∧
      ∃ t, exec (.addSpPos 1) base = .next t ∧
        kindOf (.addSpPos 1) ∉ [Kind.arithmetic, .hiCompare, .logical, .shift, .multiply] :=
  ⟨⟨_, rfl, by decide +kernel⟩, ⟨_, rfl, by decide +kernel⟩, _, rfl, by decide +kernel⟩

theorem test_witness_MemoryWrittenByKind :
    (∃ t, exec (.movImm .r0 1) base = .next t ∧ kindOf (.movImm .r0 1) ∉ [Kind.store, .storeMany]) ∧
      ∃ t, exec (.strImm .r3 .r0 1) coded = .next t ∧ coded.mem.wf = true ∧
        ∃ r ∈ coded.codeRange, r.first ≤ 0x1003 ∧ 0x1003 ≤ r.last :=
  ⟨⟨_, rfl, by decide +kernel⟩, _, rfl, by decide +kernel, by decide +kernel⟩

theorem test_witness_OtherModesKeepRegisters :
    (∃ t, exec (.movHiLo .r13 .r0) base = .next t) ∧ ¬ Visible base.cpsr.mode .r13Usr ∧
      (kindOf (.movHiLo .r13 .r0) = .swi → PReg.r13Usr ≠ .r14Svc) := by
  refine ⟨⟨_, rfl⟩, ?_, fun _ => by decide +kernel⟩
  rintro (⟨r, h⟩ | ⟨r, h⟩)
  · cases r <;> cases h
  · cases r <;> cases h

theorem test_witness_ThumbRunsKeepMode :
    ∃ t, Reaches 2 (base.withFetchWord 16 0xE7FE) t ∧ t.cpsr.t = true := ⟨_, ⟨_, rfl, _, rfl, rfl⟩, rfl⟩

theorem test_witness_WellFormedHasEffect :
    (Instr.bxLo .r0 1).wellFormed = false ∧ (Instr.bxLo .r0 0).wellFormed = true := by decide +kernel

theorem test_witness_ExecNeverRefuses :
    State.hardwareReset.cpsr.t = false ∧ ∃ r, step State.hardwareReset = .refused r := ⟨rfl, _, rfl⟩

theorem test_witness_DrawsOnlyByMultiply :
    (∃ t, exec (.mulReg .r0 .r3) base = .next t) ∧ ∃ t, exec (.movImm .r0 1) base = .next t :=
  ⟨⟨_, rfl⟩, _, rfl⟩

end Sys2Proof.Tests
end

section
/-! The fields of the words of formats 2, 4 and 5: operation bits, then two or three fields of three bits (rules R82,
R84, R85). -/

namespace Sys2Proof

/-- The operation bits of formats 4 and 5. -/
@[simp] theorem field_op_two (op : BitVec 10) (y x : BitVec 3) {lo len : Nat} (h : 6 ≤ lo) :
    field (op ++ y ++ x) lo len = op.extractLsb' (lo - 6) len := by
  rw [field, extract_append_high _ _ _ _ (by omega), extract_append_high _ _ _ _ (by omega)]
  rfl

@[simp] theorem field_second_of_two (op : BitVec 10) (y x : BitVec 3) : field (op ++ y ++ x) 3 3 = y := by
  rw [field, extract_append_high _ _ _ _ le_rfl, extract_append_low _ _ _ _ le_rfl]
  exact extract_all y

@[simp] theorem field_first_of_two (op : BitVec 10) (y x : BitVec 3) : field (op ++ y ++ x) 0 3 = x := by
  rw [field, extract_append_low _ _ _ _ le_rfl, extract_all]

/-- The operation bits of format 2. -/
@[simp] theorem field_op_three (op : BitVec 7) (z y x : BitVec 3) {lo len : Nat} (h : 9 ≤ lo) :
    field (op ++ z ++ y ++ x) lo len = op.extractLsb' (lo - 9) len :=
  (field_op_two (op ++ z) y x (by omega)).trans (extract_append_high op z _ _ (by omega))

@[simp] theorem field_third_of_three (op : BitVec 7) (z y x : BitVec 3) : field (op ++ z ++ y ++ x) 6 3 = z :=
  (field_op_two (op ++ z) y x le_rfl).trans ((extract_append_low op z _ _ le_rfl).trans (extract_all z))

@[simp] theorem field_second_of_three (op : BitVec 7) (z y x : BitVec 3) : field (op ++ z ++ y ++ x) 3 3 = y :=
  field_second_of_two (op ++ z) y x

@[simp] theorem field_first_of_three (op : BitVec 7) (z y x : BitVec 3) : field (op ++ z ++ y ++ x) 0 3 = x :=
  field_first_of_two (op ++ z) y x

end Sys2Proof
end

section
/-! What an instruction that ends in an addition's flags leaves (rules R11, R32, R140). -/

namespace Sys2Proof.Machine

/-- The result of an addition and its flags written, then on to the next halfword. -/
theorem State.next_of_setLo_flagsAdd {s : State} (hp : s.pc.toNat + 2 < 2 ^ 32) (rd : LoReg) (r : AddResult) :
    ∃ t, ((s.setLo rd r.result).flagsAdd r).advance = .next t ∧ FallsThrough s t [loPReg rd] ∧
      t.lo rd = r.result ∧ t.cpsr = s.cpsr.withAdd r :=
  State.next_of_setLo_setCpsr hp rd r.result (s.cpsr.withAdd r)

/-- The flags of an addition written, then on to the next halfword. -/
theorem State.next_of_flagsAdd {s : State} (hp : s.pc.toNat + 2 < 2 ^ 32) (r : AddResult) :
    ∃ t, (s.flagsAdd r).advance = .next t ∧ FallsThrough s t [] ∧ t.cpsr = s.cpsr.withAdd r :=
  State.next_of_setCpsr hp (s.cpsr.withAdd r)

theorem State.next_of_setLo_sum {s : State} (hp : s.pc.toNat + 2 < 2 ^ 32) (rd : LoReg) {a b : Word} {k : Nat}
    {r : AddResult} (hr : IsSum s.cpsr (s.cpsr.withAdd r) a b k r.result) :
    ∃ t, ((s.setLo rd r.result).flagsAdd r).advance = .next t ∧ FallsThrough s t [loPReg rd] ∧
      IsSum s.cpsr t.cpsr a b k (t.lo rd) := by
  obtain ⟨t, ht, hfall, hlo, hcpsr⟩ := State.next_of_setLo_flagsAdd hp rd r
  exact ⟨t, ht, hfall, by rwa [hlo, hcpsr]⟩

theorem State.next_of_setLo_diff {s : State} (hp : s.pc.toNat + 2 < 2 ^ 32) (rd : LoReg) {a b : Word} {k : Nat}
    {r : AddResult} (hr : IsDiff s.cpsr (s.cpsr.withAdd r) a b k r.result) :
    ∃ t, ((s.setLo rd r.result).flagsAdd r).advance = .next t ∧ FallsThrough s t [loPReg rd] ∧
      IsDiff s.cpsr t.cpsr a b k (t.lo rd) := by
  obtain ⟨t, ht, hfall, hlo, hcpsr⟩ := State.next_of_setLo_flagsAdd hp rd r
  exact ⟨t, ht, hfall, by rwa [hlo, hcpsr]⟩

/-- A comparison by addition writes no register (rule R152). -/
theorem State.next_of_compare_sum {s : State} (hp : s.pc.toNat + 2 < 2 ^ 32) (a b : Word) :
    ∃ t r, (s.flagsAdd (addOp a b)).advance = .next t ∧ FallsThrough s t [] ∧ IsSum s.cpsr t.cpsr a b 0 r := by
  obtain ⟨t, ht, hfall, hcpsr⟩ := State.next_of_flagsAdd hp (addOp a b)
  exact ⟨t, _, ht, hfall, by rw [hcpsr]; exact isSum_addOp s.cpsr a b⟩

/-- A comparison by subtraction writes no register (rules R133, R151, R173). -/
theorem State.next_of_compare_diff {s : State} (hp : s.pc.toNat + 2 < 2 ^ 32) (a b : Word) :
    ∃ t r, (s.flagsAdd (subOp a b)).advance = .next t ∧ FallsThrough s t [] ∧ IsDiff s.cpsr t.cpsr a b 0 r := by
  obtain ⟨t, ht, hfall, hcpsr⟩ := State.next_of_flagsAdd hp (subOp a b)
  exact ⟨t, _, ht, hfall, by rw [hcpsr]; exact isDiff_subOp s.cpsr a b⟩

end Sys2Proof.Machine
end

section
/-! No meaning of an instruction is a refusal, and a step is one in ARM state only (rules R4, R5, R300). -/

namespace Sys2Proof.Machine

/-! ### The shared operations -/

theorem State.advance_ne_refused (s : State) (r : Refusal) : s.advance ≠ .refused r := by
  unfold State.advance
  split <;> nofun

theorem State.branchIf_ne_refused (s : State) (k : Cond) (offset : Word) (r : Refusal) :
    s.branchIf k offset ≠ .refused r := by
  unfold State.branchIf
  split
  · nofun
  · exact State.advance_ne_refused _ _

theorem State.finishHi_ne_refused (s : State) (hd : HiReg) (v : Word) (r : Refusal) :
    s.finishHi hd v ≠ .refused r := by
  unfold State.finishHi
  split
  · exact State.advance_ne_refused _ _
  · nofun

theorem State.exchange_ne_refused (s : State) (v : Word) (r : Refusal) : s.exchange v ≠ .refused r := by
  unfold State.exchange
  repeat' split
  all_goals nofun

theorem State.load_ne_refused (s : State) (rd : LoReg) (a : Word) (w : Width) (ext : Word → Word) (r : Refusal) :
    s.load rd a w ext ≠ .refused r := by
  unfold State.load
  split
  · nofun
  · exact State.advance_ne_refused _ _

theorem State.store_ne_refused (s : State) (a : Word) (w : Width) (v : Word) (r : Refusal) :
    s.store a w v ≠ .refused r := by
  unfold State.store
  split
  · nofun
  · exact State.advance_ne_refused _ _

theorem State.pushWords_ne_refused (s : State) (vs : List Word) (r : Refusal) : s.pushWords vs ≠ .refused r := by
  unfold State.pushWords
  split
  · nofun
  · exact State.advance_ne_refused _ _

/-! ### The meanings with checks of their own -/

theorem execBxLo_ne_refused (rs : LoReg) (sbz : BitVec 3) (s : State) (r : Refusal) :
    execBxLo rs sbz s ≠ .refused r := by
  unfold execBxLo
  split
  · nofun
  · exact State.exchange_ne_refused _ _ _

theorem execBxHi_ne_refused (hs : HiReg) (sbz : BitVec 3) (s : State) (r : Refusal) :
    execBxHi hs sbz s ≠ .refused r := by
  unfold execBxHi
  split
  · nofun
  · split
    · nofun
    · exact State.exchange_ne_refused _ _ _

theorem execPush_ne_refused (rlist : BitVec 8) (s : State) (r : Refusal) : execPush rlist s ≠ .refused r := by
  unfold execPush
  split
  · nofun
  · exact State.pushWords_ne_refused _ _ _

theorem execPop_ne_refused (rlist : BitVec 8) (s : State) (r : Refusal) : execPop rlist s ≠ .refused r := by
  unfold execPop
  split
  · nofun
  · split
    · nofun
    · exact State.advance_ne_refused _ _

theorem execPopPc_ne_refused (rlist : BitVec 8) (s : State) (r : Refusal) : execPopPc rlist s ≠ .refused r := by
  unfold execPopPc
  split
  · nofun
  · split <;> nofun

theorem execStmia_ne_refused (rb : LoReg) (rlist : BitVec 8) (s : State) (r : Refusal) :
    execStmia rb rlist s ≠ .refused r := by
  unfold execStmia
  split
  · nofun
  · split
    · nofun
    · split
      · nofun
      · exact State.advance_ne_refused _ _

theorem execLdmia_ne_refused (rb : LoReg) (rlist : BitVec 8) (s : State) (r : Refusal) :
    execLdmia rb rlist s ≠ .refused r := by
  unfold execLdmia
  split
  · nofun
  · split
    · nofun
    · exact State.advance_ne_refused _ _

/-! ### Execution and the step -/

/-- Every instruction ends in one of the shared operations, in a next state or in a fault. -/
theorem exec_ne_refused (i : Instr) (s : State) (r : Refusal) : exec i s ≠ .refused r := by
  cases i with
  | lslImm | lsrImm | asrImm | addReg | addImm3 | subReg | subImm3 | movImm | cmpImm | addImm8 | subImm8 | andReg
  | eorReg | lslReg | lsrReg | asrReg | adcReg | sbcReg | rorReg | tstReg | negReg | cmpReg | cmnReg | orrReg | mulReg
  | bicReg | mvnReg | addLoHi | cmpLoHi | cmpHiLo | cmpHiHi | movLoHi | addPc | addSpRd | addSpPos | addSpNeg
  | blHigh => exact State.advance_ne_refused _ _
  | addHiLo | addHiHi | movHiLo | movHiHi => exact State.finishHi_ne_refused _ _ _ _
  | ldrPc | ldrReg | ldrbReg | ldrhReg | ldsbReg | ldshReg | ldrImm | ldrbImm | ldrhImm
  | ldrSp => exact State.load_ne_refused _ _ _ _ _ _
  | strReg | strbReg | strhReg | strImm | strbImm | strhImm | strSp => exact State.store_ne_refused _ _ _ _ _
  | beq | bne | bcs | bcc | bmi | bpl | bvs | bvc | bhi | bls | bge | blt | bgt
  | ble => exact State.branchIf_ne_refused _ _ _ _
  | bxLo => exact execBxLo_ne_refused _ _ _ _
  | bxHi => exact execBxHi_ne_refused _ _ _ _
  | push => exact execPush_ne_refused _ _ _
  | pushLr => exact State.pushWords_ne_refused _ _ _
  | pop => exact execPop_ne_refused _ _ _
  | popPc => exact execPopPc_ne_refused _ _ _
  | stmia => exact execStmia_ne_refused _ _ _ _
  | ldmia => exact execLdmia_ne_refused _ _ _ _
  | swi | b | blLow => nofun
  | undefAddLoLo | undefCmpLoLo | undefMovLoLo | undefBxH1 | undefCond1110 | undefB1 | undefB2B3 | undefB6B7
  | undefB8BB | undefBEBF | undefE8EF => nofun

theorem step_arm {s : State} (h : s.cpsr.t = false) : step s = .refused (.armState s.pc s.lastExit) := by
  simp [step, h]

theorem step_thumb_ne_refused {s : State} (h : s.cpsr.t = true) (r : Refusal) : step s ≠ .refused r := by
  rw [step, if_pos h]
  split
  · nofun
  · exact exec_ne_refused _ _ _

end Sys2Proof.Machine
end

section
/-! The statements of formats 2, 4 and 5 on sums and differences, and on refusals. -/

namespace Sys2Proof.Proofs

open Sys2Proof.Machine

/-- Settles O12: each word by its fields, each meaning as the sum or difference of its operands. -/
theorem addSubtractResults : Obligations.AddSubtractResults := by
  intro s rd rs rn imm
  refine ⟨?_, ?_, ?_, ?_, fun hp => ⟨
    State.next_of_setLo_sum hp rd (isSum_addOp _ _ _),
    zext32_eq imm ▸ State.next_of_setLo_sum hp rd (isSum_addOp _ _ _),
    State.next_of_setLo_diff hp rd (isDiff_subOp _ _ _),
    zext32_eq imm ▸ State.next_of_setLo_diff hp rd (isDiff_subOp _ _ _)⟩⟩
  all_goals simp [decode, decodeAddSub, loAt]

/-- Settles O16: the carry flag enters ADC as 1 or 0, and SBC as the borrow that is its complement. -/
theorem arithmeticRegisterResults : Obligations.ArithmeticRegisterResults := by
  intro s rd rs cin
  have hcin : s.cpsr.c.toNat = cin := by cases h : s.cpsr.c <;> simp [cin, h]
  refine ⟨?_, ?_, ?_, ?_, ?_, fun hp => ⟨
    State.next_of_setLo_sum hp rd (hcin ▸ isSum_addWithCarry _ _ _ _),
    State.next_of_setLo_diff hp rd (hcin ▸ isDiff_addWithCarry _ _ _ _),
    State.next_of_setLo_diff hp rd (isDiff_subOp _ _ _),
    State.next_of_compare_diff hp _ _,
    State.next_of_compare_sum hp _ _⟩⟩
  all_goals simp [decode, decodeAlu, loAt]

/-- Settles O20: the three forms compare alike, whatever register each operand names. -/
theorem hiCompareResults : Obligations.HiCompareResults := by
  intro s rd rs hd hs x
  refine ⟨?_, ?_, ?_, rfl, pcRead_eq s, fun hp => ⟨
    State.next_of_compare_diff hp _ _,
    State.next_of_compare_diff hp _ _,
    State.next_of_compare_diff hp _ _⟩⟩
  all_goals simp [decode, decodeHi, loAt, hiAt]

/-- Settles O59: no meaning is a refusal, so a refused step is one that executes nothing, in ARM state. -/
theorem execNeverRefuses : Obligations.ExecNeverRefuses := by
  intro i s
  refine ⟨exec_ne_refused i s, fun r hr => ?_, step_arm⟩
  rw [← Bool.not_eq_true]
  exact fun ht => step_thumb_ne_refused ht r hr

end Sys2Proof.Proofs
end

section
/-! What a completed instruction does, said once for every kind of instruction: what it writes before control goes on to
the next halfword, and the ways to go elsewhere (rules R25, R27, R30, R260, R301, R306). -/

namespace Sys2Proof.Machine

/-! ### The writes of an instruction that goes on -/

/-- `u` is `s` with the registers, flags and memory written that an instruction of kind `k` writes, the pc being still
the instruction's address. -/
inductive Writes (s : State) : Kind → State → Prop
  | shift (rd : LoReg) (r : ShiftResult) : Writes s .shift ((s.setLo rd r.result).flagsShift r)
  | sum (rd : LoReg) (r : AddResult) : Writes s .arithmetic ((s.setLo rd r.result).flagsAdd r)
  | compare (r : AddResult) : Writes s .arithmetic (s.flagsAdd r)
  | logical (rd : LoReg) (r : Word) : Writes s .logical ((s.setLo rd r).flagsNZ r)
  | bitTest (r : Word) : Writes s .logical (s.flagsNZ r)
  | multiply (rd : LoReg) (r : Word) (c : Bool) :
    Writes s .multiply (((s.setLo rd r).setCpsr (s.cpsr.withMul r c)).countDraw)
  | hiCompare (r : AddResult) : Writes s .hiCompare (s.flagsAdd r)
  | hiMoveLo (rd : LoReg) (v : Word) : Writes s .hiMove (s.setLo rd v)
  | hiMoveHi (hd : HiReg) (p : PReg) (v : Word) (hp : hiPReg s.cpsr.mode hd = some p) :
    Writes s .hiMove (s.setReg p v)
  | addressLo (rd : LoReg) (v : Word) : Writes s .address (s.setLo rd v)
  | addressSp (v : Word) : Writes s .address (s.setSp v)
  | load (rd : LoReg) (v : Word) : Writes s .load (s.setLo rd v)
  | store (a : Word) (w : Width) (v : Word) (h : s.Writable a w) : Writes s .store (s.poke a w v)
  | push (a : Word) (vs : List Word) (m : Memory) (v : Word) (h : s.storeWords a vs = .ok (s.setMem m)) :
    Writes s .storeMany ((s.setMem m).setSp v)
  | stmia (a : Word) (vs : List Word) (m : Memory) (rb : LoReg) (v : Word)
    (h : s.storeWords a vs = .ok (s.setMem m)) : Writes s .storeMany ((s.setMem m).setLo rb v)
  | pop (l : List (LoReg × Word)) (v : Word) : Writes s .loadMany ((s.setLos l).setSp v)
  | ldmia (l : List (LoReg × Word)) : Writes s .loadMany (s.setLos l)
  | untaken : Writes s .condBranch s
  | link (v : Word) : Writes s .link (s.setLr v)

/-- The parts of the state that no instruction writes but SWI, BX and the end of an instruction. -/
structure KeepsControl (s u : State) : Prop where
  pc : u.pc = s.pc
  reserved : u.cpsr.reserved = s.cpsr.reserved
  i : u.cpsr.i = s.cpsr.i
  f : u.cpsr.f = s.cpsr.f
  t : u.cpsr.t = s.cpsr.t
  mode : u.cpsr.mode = s.cpsr.mode
  spsr : u.spsr = s.spsr
  endian : u.endian = s.endian
  memAdmit : u.memAdmit = s.memAdmit
  codeRange : u.codeRange = s.codeRange
  lastExit : u.lastExit = s.lastExit

theorem Writes.keepsControl {s u : State} {k : Kind} (hw : Writes s k u) : KeepsControl s u := by
  cases hw with
  | pop | ldmia => constructor <;> simp
  | _ => constructor <;> rfl

/-- Memory stays in canonical form (log entry 6). -/
theorem Writes.mem_wf {s u : State} {k : Kind} (hw : Writes s k u) (hm : s.mem.wf = true) : u.mem.wf = true := by
  cases hw with
  | store a w v => exact State.poke_wf hm a w v
  | push a vs m v h => exact (State.storeWords_cases h).2.1 hm
  | stmia a vs m rb v h => exact (State.storeWords_cases h).2.1 hm
  | pop | ldmia => simpa using hm
  | _ => exact hm

/-! ### Registers a mode cannot name -/

theorem visible_lo (m : Mode) (r : LoReg) : Visible m (loPReg r) :=
  .inl ⟨r, rfl⟩

theorem visible_hi {m : Mode} {h : HiReg} {p : PReg} (hp : hiPReg m h = some p) : Visible m p :=
  .inr ⟨h, hp.symm⟩

theorem visible_sp (m : Mode) : Visible m (spPReg m) :=
  visible_hi (h := .r13) rfl

theorem visible_lr (m : Mode) : Visible m (lrPReg m) :=
  visible_hi (h := .r14) rfl

/-- A write of a register the mode can name leaves the others. -/
theorem get_set_of_not_visible {m : Mode} {p q : PReg} (hq : Visible m q) (hp : ¬ Visible m p) (f : RegFile)
    (v : Word) : (f.set q v).get p = f.get p :=
  RegFile.get_set_other f v fun h => hp (h ▸ hq)

theorem setLos_get_of_not_visible {m : Mode} {p : PReg} (hp : ¬ Visible m p) (s : State)
    (l : List (LoReg × Word)) : (s.setLos l).regs.get p = s.regs.get p :=
  State.setLos_regs_get s l p fun e _ h => hp (h ▸ visible_lo m e.1)

/-- Only registers of the current mode are written (rule R24). -/
theorem Writes.regs_of_not_visible {s u : State} {k : Kind} (hw : Writes s k u) {p : PReg}
    (hp : ¬ Visible s.cpsr.mode p) : u.regs.get p = s.regs.get p := by
  cases hw with
  | compare | bitTest | hiCompare | store | untaken => rfl
  | shift | sum | logical | multiply | hiMoveLo | addressLo | load | stmia =>
    exact get_set_of_not_visible (visible_lo _ _) hp _ _
  | hiMoveHi hd q v hq => exact get_set_of_not_visible (visible_hi hq) hp _ _
  | addressSp | push => exact get_set_of_not_visible (visible_sp _) hp _ _
  | link => exact get_set_of_not_visible (visible_lr _) hp _ _
  | pop l v =>
    rw [State.setSp_regs, State.setLos_cpsr, get_set_of_not_visible (visible_sp _) hp, setLos_get_of_not_visible hp]
  | ldmia l => exact setLos_get_of_not_visible hp s l

/-! ### The ends of an instruction -/

/-- ADD and MOV of format 5 with R15 as destination (rule R177). -/
def WritesR15 (i : Instr) : Prop :=
  (∃ rs, i = .addHiLo .r15 rs ∨ i = .movHiLo .r15 rs) ∨ (∃ hs, i = .addHiHi .r15 hs ∨ i = .movHiHi .r15 hs)

/-- The next states `t` that instruction `i` can answer in state `s`. -/
inductive Completes (s : State) (i : Instr) : State → Prop
  /-- On to the next halfword (rule R25). -/
  | goesOn {u : State} (hp : s.pc.toNat + 2 < 2 ^ 32) (hw : Writes s (kindOf i) u) : Completes s i (u.setPc (s.pc + 2))
  /-- A taken conditional branch (rule R260). -/
  | branchIf (k : BitVec 8) (hi : kindOf i = .condBranch) : Completes s i (s.setPc (s.pc + 4 + branchOffset k))
  /-- B (rule R279). -/
  | branch (k : BitVec 11) (hi : kindOf i = .branch) : Completes s i (s.setPc (s.pc + 4 + branchOffset k))
  /-- A write of R15 by format 5 (rule R177). -/
  | writesR15 (v : Word) (hi : WritesR15 i) : Completes s i (s.setPc (dropBit0 v))
  /-- POP with PC (rule R244). -/
  | popPc (rlist : BitVec 8) (l : List (LoReg × Word)) (v a : Word) (hi : i = .popPc rlist) :
    Completes s i (((s.setLos l).setSp v).setPc (dropBit0 a))
  /-- The second half of BL (rule R282). -/
  | blLow (off11 : BitVec 11) (v a : Word) (hi : i = .blLow off11) : Completes s i ((s.setLr v).setPc (dropBit0 a))
  /-- BX (rule R175). -/
  | exchange {t : State} (v : Word) (hi : kindOf i = .exchange) (h : s.exchange v = .next t) : Completes s i t
  /-- SWI (rule R301). -/
  | swi (value8 : BitVec 8) (hi : kindOf i = .swi) :
    Completes s i ((s.enterException .svc Config.swiVector (s.pc + 2)).setExit (.softwareInterrupt value8))

section
variable {s t : State} {i : Instr}

theorem Completes.of_advance {u : State} (h : u.advance = .next t) (hw : Writes s (kindOf i) u) :
    Completes s i t := by
  obtain ⟨hp, rfl⟩ := State.advance_cases h
  rw [hw.keepsControl.pc] at hp ⊢
  exact .goesOn hp hw

theorem Completes.of_load {rd : LoReg} {a : Word} {w : Width} {ext : Word → Word}
    (h : s.load rd a w ext = .next t) (hk : kindOf i = .load) : Completes s i t := by
  obtain ⟨-, hp, rfl⟩ := State.load_cases h
  exact .goesOn hp (hk ▸ .load rd _)

theorem Completes.of_store {a : Word} {w : Width} {v : Word} (h : s.store a w v = .next t)
    (hk : kindOf i = .store) : Completes s i t := by
  obtain ⟨ha, hp, rfl⟩ := State.store_cases h
  exact .goesOn hp (hk ▸ .store a w v ha)

theorem Completes.of_pushWords {vs : List Word} (h : s.pushWords vs = .next t) (hk : kindOf i = .storeMany) :
    Completes s i t := by
  obtain ⟨hp, -, m, hs, -, rfl⟩ := State.pushWords_cases h
  exact .goesOn hp (hk ▸ .push _ vs m _ hs)

theorem Completes.of_branchIf {k : Cond} {off : BitVec 8} (h : s.branchIf k (branchOffset off) = .next t)
    (hk : kindOf i = .condBranch) : Completes s i t := by
  rcases State.branchIf_cases h with ⟨-, rfl⟩ | ⟨-, hp, rfl⟩
  · exact .branchIf off hk
  · exact .goesOn hp (hk ▸ .untaken)

theorem Completes.of_finishHi {hd : HiReg} {v : Word} (h : s.finishHi hd v = .next t)
    (hk : kindOf i = .hiMove) (hi : hd = .r15 → WritesR15 i) : Completes s i t := by
  rcases State.finishHi_cases h with ⟨p, hp, hpc, rfl⟩ | ⟨hd15, rfl⟩
  · exact .goesOn hpc (hk ▸ .hiMoveHi hd p v hp)
  · exact .writesR15 v (hi hd15)

end

/-! ### The meanings with checks of their own -/

section
variable {s t : State}

theorem execBxLo_cases {rs : LoReg} {sbz : BitVec 3} (h : execBxLo rs sbz s = .next t) :
    s.exchange (s.lo rs) = .next t := by
  unfold execBxLo at h
  split at h
  · cases h
  · exact h

theorem execBxHi_cases {hs : HiReg} {sbz : BitVec 3} (h : execBxHi hs sbz s = .next t) :
    s.exchange (s.hi hs) = .next t := by
  unfold execBxHi at h
  split at h
  · cases h
  · split at h
    · cases h
    · exact h

theorem execPush_cases {rlist : BitVec 8} (h : execPush rlist s = .next t) :
    rlist ≠ 0 ∧ s.pushWords (s.listValues rlist) = .next t := by
  unfold execPush at h
  split at h
  · cases h
  · exact ⟨‹_›, h⟩

theorem execPop_cases {rlist : BitVec 8} (h : execPop rlist s = .next t) :
    rlist ≠ 0 ∧ ∃ vs, s.loadWords s.sp (listRegs rlist).length = .ok vs ∧
      ((s.setLos ((listRegs rlist).zip vs)).setSp (s.sp + wordBytes (listRegs rlist).length)).advance = .next t := by
  unfold execPop at h
  split at h
  · cases h
  · split at h
    · cases h
    · exact ⟨‹_›, _, ‹_›, h⟩

theorem execPopPc_cases {rlist : BitVec 8} (h : execPopPc rlist s = .next t) :
    ∃ vs a, s.loadWords s.sp (listRegs rlist).length = .ok vs ∧
      s.memRead (s.sp + wordBytes (listRegs rlist).length) .word = .ok a ∧
      t = ((s.setLos ((listRegs rlist).zip vs)).setSp
        (s.sp + wordBytes ((listRegs rlist).length + 1))).setPc (dropBit0 a) := by
  unfold execPopPc at h
  split at h
  · cases h
  · split at h
    · cases h
    · refine ⟨_, _, ‹_›, ‹_›, ?_⟩
      rw [← Host.Outcome.next.inj h, State.branchTo, and_even]

theorem execStmia_cases {rb : LoReg} {rlist : BitVec 8} (h : execStmia rb rlist s = .next t) :
    rlist ≠ 0 ∧ baseNotLowest rb rlist = false ∧ ∃ u, s.storeWords (s.lo rb) (s.listValues rlist) = .ok u ∧
      (u.setLo rb (s.lo rb + wordBytes (listRegs rlist).length)).advance = .next t := by
  unfold execStmia at h
  split at h
  · cases h
  · split at h
    · cases h
    · split at h
      · cases h
      · exact ⟨‹_›, Bool.eq_false_iff.2 ‹_›, _, ‹_›, h⟩

theorem execLdmia_cases {rb : LoReg} {rlist : BitVec 8} (h : execLdmia rb rlist s = .next t) :
    rlist ≠ 0 ∧ ∃ vs, s.loadWords (s.lo rb) (listRegs rlist).length = .ok vs ∧
      ((s.setLo rb (s.lo rb + wordBytes (listRegs rlist).length)).setLos ((listRegs rlist).zip vs)).advance =
        .next t := by
  unfold execLdmia at h
  split at h
  · cases h
  · split at h
    · cases h
    · exact ⟨‹_›, _, ‹_›, h⟩

end

/-! ### Every instruction -/

/-- What an instruction that answers a next state does. -/
theorem exec_completes {s t : State} {i : Instr} (h : exec i s = .next t) : Completes s i t := by
  cases i with
  | lslImm | lsrImm | asrImm | lslReg | lsrReg | asrReg | rorReg => exact .of_advance h (.shift _ _)
  | addReg | addImm3 | subReg | subImm3 | addImm8 | subImm8 | adcReg | sbcReg
  | negReg => exact .of_advance h (.sum _ _)
  | cmpImm | cmpReg | cmnReg => exact .of_advance h (.compare _)
  | movImm | andReg | eorReg | orrReg | bicReg | mvnReg => exact .of_advance h (.logical _ _)
  | tstReg => exact .of_advance h (.bitTest _)
  | mulReg => exact .of_advance h (.multiply _ _ _)
  | cmpLoHi | cmpHiLo | cmpHiHi => exact .of_advance h (.hiCompare _)
  | addLoHi | movLoHi => exact .of_advance h (.hiMoveLo _ _)
  | addHiLo hd rs => exact .of_finishHi h rfl fun hd15 => .inl ⟨rs, .inl (by rw [hd15])⟩
  | movHiLo hd rs => exact .of_finishHi h rfl fun hd15 => .inl ⟨rs, .inr (by rw [hd15])⟩
  | addHiHi hd hs => exact .of_finishHi h rfl fun hd15 => .inr ⟨hs, .inl (by rw [hd15])⟩
  | movHiHi hd hs => exact .of_finishHi h rfl fun hd15 => .inr ⟨hs, .inr (by rw [hd15])⟩
  | bxLo => exact .exchange _ rfl (execBxLo_cases h)
  | bxHi => exact .exchange _ rfl (execBxHi_cases h)
  | addPc | addSpRd => exact .of_advance h (.addressLo _ _)
  | addSpPos | addSpNeg => exact .of_advance h (.addressSp _)
  | ldrPc | ldrReg | ldrbReg | ldrhReg | ldsbReg | ldshReg | ldrImm | ldrbImm | ldrhImm
  | ldrSp => exact .of_load h rfl
  | strReg | strbReg | strhReg | strImm | strbImm | strhImm | strSp => exact .of_store h rfl
  | push => exact .of_pushWords (execPush_cases h).2 rfl
  | pushLr => exact .of_pushWords h rfl
  | pop =>
    obtain ⟨-, vs, -, ht⟩ := execPop_cases h
    exact .of_advance ht (.pop _ _)
  | popPc rlist =>
    obtain ⟨vs, a, -, -, rfl⟩ := execPopPc_cases h
    exact .popPc rlist _ _ a rfl
  | stmia =>
    obtain ⟨-, -, u, hu, ht⟩ := execStmia_cases h
    obtain ⟨hmem, -, -⟩ := State.storeWords_cases hu
    rw [hmem] at hu ht
    exact .of_advance ht (.stmia _ _ _ _ _ hu)
  | ldmia rb =>
    obtain ⟨-, vs, -, ht⟩ := execLdmia_cases h
    exact .of_advance ht (.ldmia ((rb, _) :: _))
  | beq | bne | bcs | bcc | bmi | bpl | bvs | bvc | bhi | bls | bge | blt | bgt | ble => exact .of_branchIf h rfl
  | swi value8 => exact Host.Outcome.next.inj h ▸ .swi value8 rfl
  | b off11 => exact Host.Outcome.next.inj h ▸ .branch off11 rfl
  | blHigh => exact .of_advance h (.link _)
  | blLow off11 =>
    rw [← Host.Outcome.next.inj h, State.branchTo, and_even]
    exact .blLow off11 _ _ rfl
  | undefAddLoLo | undefCmpLoLo | undefMovLoLo | undefBxH1 | undefCond1110 | undefB1 | undefB2B3 | undefB6B7
  | undefB8BB | undefBEBF | undefE8EF => cases h

/-- A step that answers a next state executes the word it fetched, in THUMB state (rules R54, R308). -/
theorem step_cases {s t : State} (h : step s = .next t) :
    s.cpsr.t = true ∧ ∃ w, s.fetch = .ok w ∧ exec (decode w) s = .next t := by
  unfold step at h
  split at h
  · split at h
    · cases h
    · exact ⟨‹_›, _, ‹_›, h⟩
  · cases h

end Sys2Proof.Machine
end

section
/-! What every step keeps: the invariant of a run, T and the recorded outcome, the flags a kind leaves, the registers of
other modes (rules R24, R25, R30, R34, R54). -/

namespace Sys2Proof.Machine

/-! ### The alignment of the pc -/

theorem dropBit0_even (v : Word) : (dropBit0 v).toNat % 2 = 0 := by
  rw [dropBit0_toNat]
  omega

theorem branchOffset_even {n : Nat} (k : BitVec n) : (branchOffset k).toNat % 2 = 0 := by
  rw [branchOffset, BitVec.toNat_shiftLeft, Nat.shiftLeft_eq]
  omega

theorem branchTarget_even {n : Nat} {pc : Word} (h : pc.toNat % 2 = 0) (k : BitVec n) :
    (pc + 4 + branchOffset k).toNat % 2 = 0 := by
  have hk := branchOffset_even k
  have h4 : (4 : Word).toNat = 4 := rfl
  rw [BitVec.toNat_add, BitVec.toNat_add, h4]
  omega

theorem toNat_add_two {pc : Word} (h : pc.toNat + 2 < 2 ^ 32) : (pc + 2).toNat = pc.toNat + 2 := by
  have h2 : (2 : Word).toNat = 2 := rfl
  rw [BitVec.toNat_add, h2, Nat.mod_eq_of_lt h]

/-- In THUMB state the invariant of a run asks for an even pc. -/
theorem RunInv.of_thumb {s : State} (hm : s.mem.wf = true) (ht : s.cpsr.t = true) (hpc : s.pc.toNat % 2 = 0) :
    RunInv s :=
  ⟨hm, fun _ => hpc, fun hf => absurd (ht.symm.trans hf) Bool.noConfusion⟩

/-- In ARM state the invariant of a run asks for a pc that is a multiple of 4. -/
theorem RunInv.of_arm {s : State} (hm : s.mem.wf = true) (ht : s.cpsr.t = false) (hpc : s.pc.toNat % 4 = 0) :
    RunInv s :=
  ⟨hm, fun hf => absurd (hf.symm.trans ht) Bool.noConfusion, fun _ => hpc⟩

/-- BX leaves memory alone and goes to an address aligned for the state it enters (rule R175). -/
theorem RunInv.of_exchange {s t : State} {v : Word} (hm : s.mem.wf = true) (h : s.exchange v = .next t) : RunInv t := by
  rcases State.exchange_cases h with ⟨-, rfl⟩ | ⟨hv, rfl⟩
  · exact .of_thumb hm rfl (dropBit0_even v)
  · exact .of_arm hm rfl hv

/-- From an even pc in THUMB state every way to complete leads to a state that meets the invariant. -/
theorem Completes.runInv {s t : State} {i : Instr} (h : Completes s i t) (hm : s.mem.wf = true)
    (ht : s.cpsr.t = true) (hpc : s.pc.toNat % 2 = 0) : RunInv t := by
  cases h with
  | goesOn hp hw =>
    refine .of_thumb (hw.mem_wf hm) (hw.keepsControl.t.trans ht) ?_
    rw [State.setPc_pc, toNat_add_two hp]
    omega
  | branchIf k | branch k => exact .of_thumb hm ht (branchTarget_even hpc k)
  | writesR15 v => exact .of_thumb hm ht (dropBit0_even v)
  | popPc rlist l v a => exact .of_thumb (by simpa using hm) (by simpa using ht) (dropBit0_even a)
  | blLow off11 v a => exact .of_thumb hm ht (dropBit0_even a)
  | exchange v _ hx => exact .of_exchange hm hx
  | swi => exact .of_arm hm rfl (show Config.swiVector.toNat % 4 = 0 by decide)

/-! ### The processor state -/

/-- After BX, T is bit 0 of the address (rules R34, R175). -/
theorem State.exchange_t {s t : State} {v : Word} (h : s.exchange v = .next t) : t.cpsr.t = v.getLsbD 0 := by
  rw [bit0_eq]
  rcases State.exchange_cases h with ⟨hv, rfl⟩ | ⟨hv, rfl⟩
  · exact (decide_eq_true hv).symm
  · exact (decide_eq_false (by omega)).symm

/-- An instruction other than BX and SWI stays in THUMB state and records no outcome. -/
theorem Completes.keeps_t_lastExit {s t : State} {i : Instr} (h : Completes s i t) (hswi : kindOf i ≠ .swi)
    (hbx : kindOf i ≠ .exchange) : t.cpsr.t = s.cpsr.t ∧ t.lastExit = s.lastExit := by
  cases h with
  | goesOn hp hw => exact ⟨hw.keepsControl.t, hw.keepsControl.lastExit⟩
  | branchIf | branch | writesR15 | blLow => exact ⟨rfl, rfl⟩
  | popPc => constructor <;> simp
  | exchange v hk => exact absurd hk hbx
  | swi value8 hk => exact absurd hk hswi

theorem exec_swi_eq (value8 : BitVec 8) (s : State) :
    exec (.swi value8) s =
      .next ((s.enterException .svc Config.swiVector (s.pc + 2)).setExit (.softwareInterrupt value8)) := rfl

theorem kindOf_eq_swi {i : Instr} (h : kindOf i = .swi) : ∃ value8, i = .swi value8 := by
  cases i with
  | swi value8 => exact ⟨value8, rfl⟩
  | _ => cases h

/-! ### The flags -/

/-- The kinds of instruction that set a flag (rule R30). -/
def flagKinds : List Kind :=
  [.arithmetic, .hiCompare, .logical, .shift, .multiply]

/-- The four flags are the same. -/
def SameFlags (p q : Psr) : Prop :=
  q.n = p.n ∧ q.z = p.z ∧ q.c = p.c ∧ q.v = p.v

theorem SameFlags.refl (p : Psr) : SameFlags p p :=
  ⟨rfl, rfl, rfl, rfl⟩

theorem Writes.cpsr_of_not_flagKind {s u : State} {k : Kind} (hw : Writes s k u) (hk : k ∉ flagKinds) :
    u.cpsr = s.cpsr := by
  cases hw with
  | shift | sum | compare | logical | bitTest | multiply | hiCompare => exact absurd (by decide) hk
  | pop | ldmia => simp
  | _ => rfl

theorem State.exchange_flags {s t : State} {v : Word} (h : s.exchange v = .next t) : SameFlags s.cpsr t.cpsr := by
  rcases State.exchange_cases h with ⟨-, rfl⟩ | ⟨-, rfl⟩ <;> exact .refl _

/-- An instruction of any other kind leaves the flags (rule R30). -/
theorem Completes.flags_of_not_flagKind {s t : State} {i : Instr} (h : Completes s i t)
    (hk : kindOf i ∉ flagKinds) : SameFlags s.cpsr t.cpsr := by
  cases h with
  | goesOn hp hw => exact hw.cpsr_of_not_flagKind hk ▸ .refl _
  | branchIf | branch | writesR15 | blLow | swi => exact .refl _
  | popPc rlist l => exact State.setLos_cpsr s l ▸ .refl _
  | exchange v _ hx => exact State.exchange_flags hx

theorem WritesR15.kind {i : Instr} (h : WritesR15 i) : kindOf i = .hiMove := by
  rcases h with ⟨_, rfl | rfl⟩ | ⟨_, rfl | rfl⟩ <;> rfl

/-- An instruction that sets a flag goes on to the next halfword. -/
theorem Completes.writes_of_flagKind {s t : State} {i : Instr} (h : Completes s i t) (hk : kindOf i ∈ flagKinds) :
    ∃ u, Writes s (kindOf i) u ∧ t = u.setPc (s.pc + 2) := by
  cases h with
  | goesOn hp hw => exact ⟨_, hw, rfl⟩
  | branchIf k hi | branch k hi | exchange k hi | swi k hi => exact absurd hk (hi ▸ by decide)
  | writesR15 v hi => exact absurd hk (hi.kind ▸ by decide)
  | popPc _ _ _ _ hi =>
    subst hi
    exact absurd hk (show Kind.loadMany ∉ flagKinds by decide)
  | blLow _ _ _ hi =>
    subst hi
    exact absurd hk (show Kind.link ∉ flagKinds by decide)

theorem Writes.logical_cv {s u : State} (hw : Writes s .logical u) : u.cpsr.c = s.cpsr.c ∧ u.cpsr.v = s.cpsr.v := by
  cases hw with
  | logical | bitTest => exact ⟨rfl, rfl⟩

theorem Writes.shift_multiply_v {s u : State} {k : Kind} (hw : Writes s k u) (hk : k ∈ [Kind.shift, .multiply]) :
    u.cpsr.v = s.cpsr.v := by
  rcases List.mem_pair.1 hk with rfl | rfl <;> cases hw <;> rfl

/-! ### The registers of other modes, and the platform -/

theorem State.exchange_regs {s t : State} {v : Word} (h : s.exchange v = .next t) : t.regs = s.regs := by
  rcases State.exchange_cases h with ⟨-, rfl⟩ | ⟨-, rfl⟩ <;> rfl

/-- An instruction leaves every register the current mode cannot name, but for SWI, which writes R14_svc (rules R24,
R301). -/
theorem Completes.regs_of_not_visible {s t : State} {i : Instr} (h : Completes s i t) {p : PReg}
    (hp : ¬ Visible s.cpsr.mode p) (hswi : kindOf i = .swi → p ≠ .r14Svc) : t.regs.get p = s.regs.get p := by
  cases h with
  | goesOn _ hw => exact hw.regs_of_not_visible hp
  | branchIf | branch | writesR15 => rfl
  | popPc rlist l v => exact (Writes.pop l v).regs_of_not_visible hp
  | blLow off11 v => exact (Writes.link v).regs_of_not_visible hp
  | exchange v _ hx => rw [State.exchange_regs hx]
  | swi value8 hk => exact RegFile.get_set_other _ _ (hswi hk)

/-- No instruction changes the platform's parameters (rules R52, R55, R66). -/
theorem Completes.platform {s t : State} {i : Instr} (h : Completes s i t) :
    t.endian = s.endian ∧ t.memAdmit = s.memAdmit ∧ t.codeRange = s.codeRange := by
  cases h with
  | goesOn _ hw => exact ⟨hw.keepsControl.endian, hw.keepsControl.memAdmit, hw.keepsControl.codeRange⟩
  | branchIf | branch | writesR15 | blLow | swi => exact ⟨rfl, rfl, rfl⟩
  | popPc rlist l v =>
    have hw := (Writes.pop (s := s) l v).keepsControl
    exact ⟨hw.endian, hw.memAdmit, hw.codeRange⟩
  | exchange v _ hx => rcases State.exchange_cases hx with ⟨-, rfl⟩ | ⟨-, rfl⟩ <;> exact ⟨rfl, rfl, rfl⟩

end Sys2Proof.Machine
end

section
/-! Which registers the names of a mode select (rules R22 to R24), the admission after reset (log entry 7), and the
return from an exception (rule R309). -/

namespace Sys2Proof.Machine

/-! ### One register, one name -/

/-- The Hi register whose copy a physical register is; none for R0 to R7. -/
def PReg.hiName : PReg → Option HiReg
  | .r0 | .r1 | .r2 | .r3 | .r4 | .r5 | .r6 | .r7 => none
  | .r8 | .r8Fiq => some .r8
  | .r9 | .r9Fiq => some .r9
  | .r10 | .r10Fiq => some .r10
  | .r11 | .r11Fiq => some .r11
  | .r12 | .r12Fiq => some .r12
  | .r13Usr | .r13Fiq | .r13Irq | .r13Svc | .r13Abt | .r13Und => some .r13
  | .r14Usr | .r14Fiq | .r14Irq | .r14Svc | .r14Abt | .r14Und => some .r14

theorem hiName_of_hiPReg {m : Mode} {h : HiReg} {p : PReg} (hp : hiPReg m h = some p) : p.hiName = some h := by
  cases h with
  | r15 => cases hp
  | _ => cases m <;> cases hp <;> rfl

/-- Different Hi registers are different physical registers. -/
theorem hiPReg_inj {m : Mode} {h k : HiReg} {p : PReg} (hh : hiPReg m h = some p) (hk : hiPReg m k = some p) : h = k :=
  Option.some.inj ((hiName_of_hiPReg hh).symm.trans (hiName_of_hiPReg hk))

/-! ### Reading by name after a write by name -/

/-- A write of a register that no Hi register names leaves every Hi register, R15 included. -/
theorem State.hi_setReg_other {s : State} {h : HiReg} {p : PReg} (hp : hiPReg s.cpsr.mode h ≠ some p) (v : Word) :
    (s.setReg p v).hi h = s.hi h := by
  cases hh : hiPReg s.cpsr.mode h with
  | none => rw [hiPReg_none.1 hh]; rfl
  | some q =>
    rw [State.hi_of_some hh, State.hi_of_some (s := s.setReg p v) hh]
    exact RegFile.get_set_other _ _ fun e => hp (hh.trans (congrArg some e))

theorem State.hi_setReg_same {s : State} {h : HiReg} {p : PReg} (hp : hiPReg s.cpsr.mode h = some p) (v : Word) :
    (s.setReg p v).hi h = v :=
  (State.hi_of_some (s := s.setReg p v) hp).trans (RegFile.get_set_same _ _ _)

/-- A write of one Hi register leaves every other. -/
theorem State.hi_setReg_of_ne {s : State} {h k : HiReg} {p : PReg} (hp : hiPReg s.cpsr.mode h = some p) (hk : k ≠ h)
    (v : Word) : (s.setReg p v).hi k = s.hi k :=
  State.hi_setReg_other (fun e => hk (hiPReg_inj e hp)) v

theorem State.hi_setLo (s : State) (r : LoReg) (v : Word) (h : HiReg) : (s.setLo r v).hi h = s.hi h :=
  State.hi_setReg_other (fun e => hiPReg_ne_lo e r rfl) v

theorem State.lo_setReg_hi {s : State} {h : HiReg} {p : PReg} (hp : hiPReg s.cpsr.mode h = some p) (v : Word)
    (q : LoReg) : (s.setReg p v).lo q = s.lo q :=
  RegFile.get_set_other _ _ (hiPReg_ne_lo hp q)

/-! ### Which modes share a register -/

/-- User and System mode share R13, every other mode has its own (rule R24). -/
theorem spPReg_eq_iff (m k : Mode) :
    spPReg m = spPReg k ↔ m = k ∨ (m ∈ [Mode.usr, .sys] ∧ k ∈ [Mode.usr, .sys]) := by
  cases m <;> cases k <;> decide

/-- R14 is shared as R13 is (rule R24). -/
theorem lrPReg_eq_iff_spPReg_eq (m k : Mode) : lrPReg m = lrPReg k ↔ spPReg m = spPReg k := by
  cases m <;> cases k <;> decide

/-- Of two copies of which FIQ mode uses the first, two modes use the same when both or none is FIQ (rule R24). -/
theorem fiqCopy_eq_iff {p q : PReg} (hpq : p ≠ q) (m k : Mode) :
    some (if m = .fiq then p else q) = some (if k = .fiq then p else q) ↔ (m = .fiq ↔ k = .fiq) := by
  by_cases hm : m = .fiq <;> by_cases hk : k = .fiq <;> simp [hm, hk, hpq, hpq.symm]

/-- FIQ mode alone has its own R8 to R12 (rule R24). -/
theorem hiPReg_eq_iff_fiq (m k : Mode) {h : HiReg} (hh : h ∈ [HiReg.r8, .r9, .r10, .r11, .r12]) :
    hiPReg m h = hiPReg k h ↔ (m = .fiq ↔ k = .fiq) := by
  cases h with
  | r8 | r9 | r10 | r11 | r12 => exact fiqCopy_eq_iff (by decide) m k
  | r13 | r14 | r15 => exact absurd hh (by decide)

/-! ### Admission after reset -/

/-- The platform of the reset state admits every access inside the address space, so every aligned one (log entry 7). -/
theorem reset_admits {a : Word} {w : Width} (h : aligned a w = true) (k : AccessKind) :
    State.reset.admits a w k = true := by
  have hin := aligned_inside (aligned_iff.1 h)
  have hw : [Width.byte, .half, .word].contains w = true := by cases w <;> rfl
  have hk : [AccessKind.read, .write, .fetch].contains k = true := by cases k <;> rfl
  refine List.any_eq_true.2 ⟨_, List.mem_cons_self, ?_⟩
  simp only [Region.admits, Bool.and_eq_true, decide_eq_true_eq]
  exact ⟨⟨⟨Nat.zero_le _, hin⟩, hw⟩, hk⟩

/-! ### The return from an exception -/

/-- A return from Supervisor mode restores SPSR_svc and goes to R14_svc less the offset (rule R309). -/
theorem State.returnFromException_svc {s : State} (h : s.cpsr.mode = .svc) (offset : Word) :
    s.returnFromException offset = some ((s.setCpsr s.spsr.svc).setPc (s.regs.get .r14Svc - offset)) := by
  simp only [State.returnFromException, State.lr, h, Mode.excMode, lrPReg, SpsrFile.get]

theorem Mode.excMode_eq_none {m : Mode} : m.excMode = none ↔ m = .usr ∨ m = .sys := by
  cases m <;> decide

/-- There is a return exactly from the modes that have an SPSR (rule R24). -/
theorem State.returnFromException_eq_none {s : State} {offset : Word} :
    s.returnFromException offset = none ↔ s.cpsr.mode = .usr ∨ s.cpsr.mode = .sys := by
  rw [← Mode.excMode_eq_none]
  unfold State.returnFromException
  split <;> simp [*]

end Sys2Proof.Machine
end

section
/-! What every instruction does at the last halfword of the address space (rules R28, R304). -/

namespace Sys2Proof.Machine

/-! ### The PC as an operand -/

/-- The address of formats 6 and 12 (rules R191, R230). -/
theorem pcReadWord_add_wordOffset (s : State) (word8 : BitVec 8) :
    s.pcReadWord + wordOffset word8 = BitVec.ofNat 32 ((pcWordBase s.pc).toNat + 4 * word8.toNat) := by
  rw [add_ofNat, pcReadWord_eq, wordOffset_toNat word8 le_rfl]

theorem pcAddr_eq (s : State) (word8 : BitVec 8) :
    s.pcAddr word8 = BitVec.ofNat 32 ((pcWordBase s.pc).toNat + 4 * word8.toNat) :=
  pcReadWord_add_wordOffset s word8

theorem pcWordBase_aligned (pc : Word) : (pcWordBase pc).toNat % 4 = 0 := by
  rw [pcWordBase, BitVec.toNat_ofNat]
  omega

theorem pcAddr_aligned (s : State) (word8 : BitVec 8) : (s.pcAddr word8).toNat % 4 = 0 := by
  have hb := pcWordBase_aligned s.pc
  rw [pcAddr_eq, BitVec.toNat_ofNat]
  omega

/-- The PC plus a signed offset (rules R106, R281). -/
theorem pcRead_add_ofInt (s : State) (d : Int) :
    s.pcRead + BitVec.ofInt 32 d = BitVec.ofInt 32 (s.pc.toNat + 4 + d) := by
  rw [BitVec.ofInt_add, pcRead_eq, ← BitVec.ofInt_natCast]
  norm_cast

/-! ### The same instruction at another address -/

theorem State.load_ok {s : State} {a : Word} {w : Width} (h : s.Readable a w) (rd : LoReg) (ext : Word → Word) :
    s.load rd a w ext = (s.setLo rd (ext (s.peek a w))).advance := by
  rw [State.load, State.memRead_ok h]

theorem State.store_ok {s : State} {a : Word} {w : Width} (h : s.Writable a w) (v : Word) :
    s.store a w v = (s.poke a w v).advance := by
  rw [State.store, State.memWrite_ok h]

theorem State.setLos_moved (s : State) (l : List (LoReg × Word)) (b : Word) :
    ((s.setPc b).setLos l).setPc s.pc = s.setLos l := by
  rw [State.setLos_setPc, ← State.setLos_pc s l]
  rfl

section
variable {s u : State} {b : Word} (hs : 2 ^ 32 ≤ s.pc.toNat + 2)
include hs

/-- A load that goes on at another address stops at the top with its register written (rule R28). -/
theorem State.load_wraps {rd : LoReg} {a : Word} {w : Width} {ext : Word → Word}
    (h : (s.setPc b).load rd a w ext = .next u) :
    s.load rd a w ext = .fault (.unpredictable (.pcWrap (u.setPc s.pc)) s.pc) := by
  obtain ⟨⟨ha, hadm⟩, -, rfl⟩ := State.load_cases h
  rw [State.load_ok (s := s) ⟨ha, hadm⟩]
  exact State.advance_wrap (s := s.setLo rd _) hs

/-- A store that goes on at another address stops at the top with memory written (rule R28). -/
theorem State.store_wraps {a : Word} {w : Width} {v : Word} (h : (s.setPc b).store a w v = .next u) :
    s.store a w v = .fault (.unpredictable (.pcWrap (u.setPc s.pc)) s.pc) := by
  obtain ⟨⟨ha, hcode, hadm⟩, -, rfl⟩ := State.store_cases h
  rw [State.store_ok (s := s) ⟨ha, hcode, hadm⟩]
  exact State.advance_wrap (s := s.poke a w v) hs

theorem State.pushWords_wraps {vs : List Word} (h : (s.setPc b).pushWords vs = .next u) :
    s.pushWords vs = .fault (.unpredictable (.pcWrap (u.setPc s.pc)) s.pc) := by
  obtain ⟨-, -, m, hstore, -, rfl⟩ := State.pushWords_cases h
  have hm : s.storeWords (s.pushStart vs.length) vs = .ok (s.setMem m) := State.storeWords_setPc hstore
  rw [State.pushWords, hm]
  exact State.advance_wrap (s := (s.setMem m).setSp _) hs

theorem execPush_wraps {rlist : BitVec 8} (h : execPush rlist (s.setPc b) = .next u) :
    execPush rlist s = .fault (.unpredictable (.pcWrap (u.setPc s.pc)) s.pc) := by
  obtain ⟨hne, hpush⟩ := execPush_cases h
  rw [execPush, if_neg hne]
  exact State.pushWords_wraps hs hpush

theorem execPop_wraps {rlist : BitVec 8} (h : execPop rlist (s.setPc b) = .next u) :
    execPop rlist s = .fault (.unpredictable (.pcWrap (u.setPc s.pc)) s.pc) := by
  obtain ⟨hne, vs, hload, hadv⟩ := execPop_cases h
  have hvs : s.loadWords s.sp (listRegs rlist).length = .ok vs := State.loadWords_setPc hload
  rw [execPop, if_neg hne, hvs]
  exact State.wraps_of_next hs (State.setLos_pc s _) hadv (congrArg (State.setSp · _) (State.setLos_moved s _ b))

theorem execStmia_wraps {rb : LoReg} {rlist : BitVec 8} (h : execStmia rb rlist (s.setPc b) = .next u) :
    execStmia rb rlist s = .fault (.unpredictable (.pcWrap (u.setPc s.pc)) s.pc) := by
  obtain ⟨hne, hbase, t, hstore, hadv⟩ := execStmia_cases h
  have ht : s.storeWords (s.lo rb) (s.listValues rlist) = .ok (t.setPc s.pc) := State.storeWords_setPc hstore
  rw [execStmia, if_neg hne, if_neg (Bool.eq_false_iff.1 hbase), ht]
  exact State.wraps_of_next hs rfl hadv rfl

theorem execLdmia_wraps {rb : LoReg} {rlist : BitVec 8} (h : execLdmia rb rlist (s.setPc b) = .next u) :
    execLdmia rb rlist s = .fault (.unpredictable (.pcWrap (u.setPc s.pc)) s.pc) := by
  obtain ⟨hne, vs, hload, hadv⟩ := execLdmia_cases h
  have hvs : s.loadWords (s.lo rb) (listRegs rlist).length = .ok vs := State.loadWords_setPc hload
  rw [execLdmia, if_neg hne, hvs]
  exact State.wraps_of_next hs (State.setLos_pc _ _) hadv (State.setLos_moved (s.setLo rb _) _ b)

/-- An instruction that does not read the pc, and that goes on at another address, stops at the top with the same
writes made (rule R28). -/
theorem exec_wraps {i : Instr}
    (hk : kindOf i ∈ [Kind.shift, .arithmetic, .logical, .multiply, .address, .load, .store, .loadMany, .storeMany])
    (hldr : ∀ rd word8, i ≠ .ldrPc rd word8) (hadd : ∀ rd word8, i ≠ .addPc rd word8)
    (hpop : ∀ rlist, i ≠ .popPc rlist) (h : exec i (s.setPc b) = .next u) :
    exec i s = .fault (.unpredictable (.pcWrap (u.setPc s.pc)) s.pc) := by
  cases i with
  | lslImm | lsrImm | asrImm | lslReg | lsrReg | asrReg | rorReg | addReg | addImm3 | subReg | subImm3 | addImm8
  | subImm8 | adcReg | sbcReg | negReg | cmpImm | cmpReg | cmnReg | movImm | andReg | eorReg | orrReg | bicReg | mvnReg
  | tstReg | mulReg | addSpRd | addSpPos | addSpNeg => exact State.wraps_of_next hs rfl h rfl
  | ldrReg | ldrbReg | ldrhReg | ldsbReg | ldshReg | ldrImm | ldrbImm | ldrhImm
  | ldrSp => exact State.load_wraps hs h
  | strReg | strbReg | strhReg | strImm | strbImm | strhImm | strSp => exact State.store_wraps hs h
  | push => exact execPush_wraps hs h
  | pushLr => exact State.pushWords_wraps hs h
  | pop => exact execPop_wraps hs h
  | stmia => exact execStmia_wraps hs h
  | ldmia => exact execLdmia_wraps hs h
  | ldrPc rd word8 => exact absurd rfl (hldr rd word8)
  | addPc rd word8 => exact absurd rfl (hadd rd word8)
  | popPc rlist => exact absurd rfl (hpop rlist)
  | _ => simp [kindOf] at hk

/-- What accesses no memory and writes no Hi register always goes on, so at the top it always stops (rule R28). -/
theorem exec_wraps_always {i : Instr}
    (hk : kindOf i ∈ [Kind.shift, .arithmetic, .logical, .multiply, .hiCompare, .address]) :
    ∃ w, exec i s = .fault (.unpredictable (.pcWrap w) s.pc) := by
  cases i with
  | lslImm | lsrImm | asrImm | lslReg | lsrReg | asrReg | rorReg | addReg | addImm3 | subReg | subImm3 | addImm8
  | subImm8 | adcReg | sbcReg | negReg | cmpImm | cmpReg | cmnReg | movImm | andReg | eorReg | orrReg | bicReg | mvnReg
  | tstReg | mulReg | cmpLoHi | cmpHiLo | cmpHiHi | addPc | addSpRd | addSpPos
  | addSpNeg => exact ⟨_, State.advance_wrap hs⟩
  | _ => simp [kindOf] at hk

/-! ### The state the stop carries -/

/-- A comparison there leaves its flags in the state the stop carries (rule R173). -/
theorem State.wraps_compare (x y : Word) : WrapsComparing s x y (s.flagsAdd (subOp x y)).advance :=
  ⟨s.flagsAdd (subOp x y), _, State.advance_wrap (s := s.flagsAdd _) hs, isDiff_subOp _ _ _, rfl,
    fun _ _ => rfl, fun _ _ => rfl, rfl, rfl, rfl, rfl, rfl⟩

/-- A load whose access completes leaves its register in the state the stop carries. -/
theorem State.wraps_load {a : Word} {w : Width} (ha : s.Readable a w) (rd : LoReg) (ext : Word → Word) :
    WrapsWriting s (loPReg rd) (ext (s.peek a w)) (s.load rd a w ext) := by
  rw [State.load_ok ha]
  exact State.wraps_setReg hs (loPReg rd) _

/-- A sum written to a register, by its number (rule R8). -/
theorem State.wraps_setReg_sum (p : PReg) (x y : Word) :
    WrapsWriting s p (BitVec.ofNat 32 (x.toNat + y.toNat)) (s.setReg p (x + y)).advance := by
  rw [← add_ofNat]
  exact State.wraps_setReg hs p _

theorem State.wraps_finishHi_sum {hd : HiReg} {p : PReg} (hp : hiPReg s.cpsr.mode hd = some p) (x y : Word) :
    WrapsWriting s p (BitVec.ofNat 32 (x.toNat + y.toNat)) (s.finishHi hd (x + y)) := by
  rw [← add_ofNat]
  exact State.wraps_finishHi hs hp _

theorem execAddPc_wraps (rd : LoReg) (word8 : BitVec 8) :
    WrapsWriting s (loPReg rd) (BitVec.ofNat 32 ((pcWordBase s.pc).toNat + 4 * word8.toNat))
      (execAddPc rd word8 s) := by
  rw [← pcReadWord_add_wordOffset]
  exact State.wraps_setReg hs _ _

theorem execLdrPc_wraps {a : Word} {word8 : BitVec 8}
    (ha : a = BitVec.ofNat 32 ((pcWordBase s.pc).toNat + 4 * word8.toNat)) (hadm : s.admits a .word .read = true)
    (rd : LoReg) : WrapsWriting s (loPReg rd) (BitVec.ofNat 32 (s.value a .word)) (execLdrPc rd word8 s) := by
  rw [← pcAddr_eq] at ha
  subst ha
  rw [← State.peek_eq]
  exact State.wraps_load hs ⟨pcAddr_aligned s word8, hadm⟩ rd id

theorem execBlHigh_wraps (off11 : BitVec 11) :
    WrapsWriting s (lrPReg s.cpsr.mode) (BitVec.ofInt 32 (s.pc.toNat + 4 + 4096 * off11.toInt))
      (execBlHigh off11 s) := by
  rw [← pcRead_add_ofInt, ← blHighOffset_eq]
  exact State.wraps_setReg hs _ _

end

/-! ### Format 16 -/

/-- The fourteen conditional branches with their conditions (rule R260). -/
def condBranches (off : BitVec 8) : List (Instr × Cond) :=
  [(.beq off, .eq), (.bne off, .ne), (.bcs off, .cs), (.bcc off, .cc), (.bmi off, .mi), (.bpl off, .pl),
    (.bvs off, .vs), (.bvc off, .vc), (.bhi off, .hi), (.bls off, .ls), (.bge off, .ge), (.blt off, .lt),
    (.bgt off, .gt), (.ble off, .le)]

theorem exec_of_mem_condBranches {off : BitVec 8} {i : Instr} {k : Cond} (h : (i, k) ∈ condBranches off) (s : State) :
    exec i s = s.branchIf k (branchOffset off) := by
  simp only [condBranches, List.mem_cons, Prod.mk.injEq, List.not_mem_nil, or_false] at h
  rcases h with ⟨rfl, rfl⟩ | ⟨rfl, rfl⟩ | ⟨rfl, rfl⟩ | ⟨rfl, rfl⟩ | ⟨rfl, rfl⟩ | ⟨rfl, rfl⟩ | ⟨rfl, rfl⟩ |
    ⟨rfl, rfl⟩ | ⟨rfl, rfl⟩ | ⟨rfl, rfl⟩ | ⟨rfl, rfl⟩ | ⟨rfl, rfl⟩ | ⟨rfl, rfl⟩ | ⟨rfl, rfl⟩ <;> rfl

theorem State.branchIf_untaken {s : State} {k : Cond} (h : k.holds s.cpsr = false) (offset : Word) :
    s.branchIf k offset = s.advance := by
  rw [State.branchIf, if_neg (Bool.eq_false_iff.1 h)]

/-! ### What leads on -/

/-- At the last halfword only the instructions that write the pc lead on. -/
theorem Completes.writes_pc {s t : State} {i : Instr} (h : Completes s i t) (hs : 2 ^ 32 ≤ s.pc.toNat + 2) :
    kindOf i ∈ [Kind.exchange, .condBranch, .branch, .swi] ∨ (∃ rlist, i = .popPc rlist) ∨
      (∃ off11, i = .blLow off11) ∨ WritesR15 i := by
  cases h with
  | goesOn hp _ => exact absurd hp (by omega)
  | branchIf _ hi | branch _ hi | exchange _ hi | swi _ hi => exact .inl (by rw [hi]; decide)
  | writesR15 _ hi => exact .inr (.inr (.inr hi))
  | popPc rlist _ _ _ hi => exact .inr (.inl ⟨rlist, hi⟩)
  | blLow off11 _ _ hi => exact .inr (.inr (.inl ⟨off11, hi⟩))

end Sys2Proof.Machine
end

section
/-! The statements of the state family. -/

namespace Sys2Proof.Proofs

open Sys2Proof.Machine

/-- Settles O50: a step executes in THUMB state, so at an even pc, and every way an instruction completes there leads to
an address aligned for the processor state it leaves. -/
theorem stepKeepsInvariant : Obligations.StepKeepsInvariant := by
  intro s t hs hstep
  obtain ⟨ht, w, -, hexec⟩ := step_cases hstep
  exact (exec_completes hexec).runInv hs.mem ht (hs.thumb ht)

/-- Settles O10: at the last halfword what would go on stops with its writes made, so only what writes the pc leads
on. -/
theorem pcWrapStops : Obligations.PcWrapStops := by
  intro s hs
  refine ⟨fun i b u hk hldr hadd hpop h => exec_wraps hs hk hldr hadd hpop h, fun i hk => exec_wraps_always hs hk,
    fun rd rs hd src p word8 off11 => ?_, fun off i k hi hk => ?_, fun i t h => (exec_completes h).writes_pc hs⟩
  · exact ⟨State.wraps_setReg_sum hs _ _ _, State.wraps_setReg hs _ _,
      fun hp => ⟨State.wraps_finishHi_sum hs hp _ _, State.wraps_finishHi_sum hs hp _ _,
        State.wraps_finishHi hs hp _, State.wraps_finishHi hs hp _⟩,
      execAddPc_wraps hs rd word8, fun a ha hadm => execLdrPc_wraps hs ha hadm rd, execBlHigh_wraps hs off11,
      State.wraps_compare hs _ _, State.wraps_compare hs _ _, State.wraps_compare hs _ _⟩
  · rw [exec_of_mem_condBranches hi, State.branchIf_untaken hk]
    exact State.advance_wrap hs

/-- Settles O47: SWI saves the CPSR in SPSR_svc and the next address in R14_svc, which are what the return restores. -/
theorem returnUndoesSwi : Obligations.ReturnUndoesSwi := by
  refine ⟨fun s t u value8 h hmode hlr hspsr => ?_, fun s offset => State.returnFromException_eq_none⟩
  rw [exec_swi_eq] at h
  obtain rfl := Host.Outcome.next.inj h
  have hsaved : u.spsr.svc = s.cpsr := hspsr
  have hlink : u.regs.get .r14Svc = s.pc + 2 := hlr.trans (RegFile.get_set_same s.regs .r14Svc (s.pc + 2))
  have hreturn : u.regs.get .r14Svc - 0 = s.pc + 2 := (BitVec.sub_zero _).trans hlink
  refine ⟨_, State.returnFromException_svc hmode 0, hsaved, hreturn, ?_⟩
  rw [hsaved, hreturn]
  rfl

/-- Settles O53: SWI and BX are the only ends of an instruction that write T or the outcome. -/
theorem stateChangesOnlyBySwiAndBx : Obligations.StateChangesOnlyBySwiAndBx := by
  intro i s t h
  refine ⟨(exec_completes h).keeps_t_lastExit, fun hk => ?_, ?_, ?_, fun u hu => (step_cases hu).1⟩
  · obtain ⟨value8, rfl⟩ := kindOf_eq_swi hk
    rw [← Host.Outcome.next.inj ((exec_swi_eq value8 s).symm.trans h)]
    rfl
  · rintro rs sbz rfl
    exact State.exchange_t (execBxLo_cases h)
  · rintro hs sbz rfl
    exact State.exchange_t (execBxHi_cases h)

/-- Settles O54: the kinds that set a flag go on to the next halfword with the flags of their own group written; every
other end of an instruction leaves the flags. -/
theorem flagsWrittenByKind : Obligations.FlagsWrittenByKind := by
  intro i s t h
  have hc := exec_completes h
  refine ⟨fun hk => ?_, fun hk => ?_, fun hk => hc.flags_of_not_flagKind hk⟩
  · obtain ⟨u, hw, rfl⟩ := hc.writes_of_flagKind (hk ▸ by decide)
    rw [hk] at hw
    exact hw.logical_cv
  · have hkinds : [Kind.shift, .multiply] ⊆ flagKinds := by decide
    obtain ⟨u, hw, rfl⟩ := hc.writes_of_flagKind (hkinds hk)
    exact hw.shift_multiply_v hk

/-- Settles O56: what completes writes registers the current mode can name, or by SWI R14_svc, and no parameter of the
platform. -/
theorem otherModesKeepRegisters : Obligations.OtherModesKeepRegisters := by
  intro i s t h
  have hc := exec_completes h
  exact ⟨fun p hp hswi => hc.regs_of_not_visible hp hswi, hc.platform⟩

/-- Settles O18: the banking by the register each name selects, R15 as the address plus 4. -/
theorem registerNames : Obligations.RegisterNames := by
  refine ⟨spPReg_eq_iff, fun m k => (lrPReg_eq_iff_spPReg_eq m k).trans (spPReg_eq_iff m k),
    fun m k h hh => hiPReg_eq_iff_fiq m k hh, fun s => ⟨rfl, rfl, ?_⟩⟩
  exact BitVec.toNat_add s.pc 4

/-- Settles O48: different names are different registers of the file. -/
theorem registersReadBack : Obligations.RegistersReadBack := by
  intro s v
  refine ⟨fun r => ⟨?_, fun q hq => ?_, State.hi_setLo s r v⟩,
    fun h p hp => ⟨State.hi_setReg_same hp v, State.lo_setReg_hi hp v, fun k hk => State.hi_setReg_of_ne hp hk v⟩,
    ⟨rfl, rfl, State.sp_setSp s v, State.lr_setLr s v⟩, fun h => hiPReg_none⟩
  · rw [State.lo_setLo, if_pos rfl]
  · rw [State.lo_setLo, if_neg hq]

/-- Settles O51: the reset state field by field. -/
theorem resetValues : Obligations.ResetValues := by
  refine ⟨rfl, rfl, rfl, rfl, rfl, rfl, rfl, rfl, rfl, rfl, rfl, fun m => ?_, rfl, fun p => ?_, fun x => rfl, rfl,
    fun a w k h => reset_admits h k, rfl, rfl⟩
  · cases m <;> rfl
  · cases p <;> rfl

end Sys2Proof.Proofs
end

section
/-! The bytes of a stored value in each byte order, and the order of the fetch (rules R52, R54, R308). -/

namespace Sys2Proof.Machine

/-! ### The place of a byte in a value -/

/-- Which byte of an `n`-byte value, counted from the least significant, is at `k` above its address (rule R52). -/
def bytePlace : Endian → Nat → Nat → Nat
  | .little, _, k => k
  | .big, n, k => n - 1 - k

theorem splitLittle_getElem? {n k : Nat} (hk : k < n) (v : Nat) :
    (splitLittle n v)[k]? = some (BitVec.ofNat 8 (v / 256 ^ k)) := by
  induction n generalizing k v with
  | zero => omega
  | succ n ih =>
    cases k with
    | zero => simp [splitLittle]
    | succ k =>
      rw [splitLittle, List.getElem?_cons_succ, ih (by omega), Nat.div_div_eq_div_mul, ← Nat.pow_succ']

theorem splitBytes_getElem? (e : Endian) {n k : Nat} (hk : k < n) (v : Nat) :
    (splitBytes e n v)[k]? = some (BitVec.ofNat 8 (v / 256 ^ bytePlace e n k)) := by
  cases e with
  | little => exact splitLittle_getElem? hk v
  | big =>
    rw [splitBytes, List.getElem?_reverse (by rwa [splitLittle_length]), splitLittle_length,
      splitLittle_getElem? (by omega)]
    rfl

theorem Memory.readBytes_getElem? (m : Memory) {a : Word} {n k : Nat} (hn : a.toNat + n ≤ 2 ^ 32) (hk : k < n) :
    (m.readBytes a n)[k]? = some (m.read (a.toNat + k)) := by
  induction n generalizing a k with
  | zero => omega
  | succ n ih =>
    cases k with
    | zero => rfl
    | succ k =>
      have ha := toNat_add_one hn (by omega)
      rw [Memory.readBytes, List.getElem?_cons_succ, ih (by omega) (by omega), ha, Nat.add_right_comm, Nat.add_assoc]

/-- After an aligned store the bytes at its address are those of the value (rules R52, R59). -/
theorem State.readBytes_poke {s : State} (hm : s.mem.wf = true) {a : Word} {w : Width} (ha : a.toNat % w.bytes = 0)
    (v : Word) : (s.poke a w v).mem.readBytes a w.bytes = splitBytes s.endian w.bytes v.toNat := by
  have hlen : (splitBytes s.endian w.bytes v.toNat).length = w.bytes := splitBytes_length _ _ _
  have hback := Memory.readBytes_writeBytes hm (a := a) (bs := splitBytes s.endian w.bytes v.toNat)
    (by rw [hlen]; exact aligned_inside ha)
  rwa [hlen] at hback

theorem State.read_poke {s : State} (hm : s.mem.wf = true) {a : Word} {w : Width} (ha : a.toNat % w.bytes = 0)
    (v : Word) {k : Nat} (hk : k < w.bytes) :
    (s.poke a w v).mem.read (a.toNat + k) = BitVec.ofNat 8 (v.toNat / 256 ^ bytePlace s.endian w.bytes k) := by
  have hread := Memory.readBytes_getElem? (s.poke a w v).mem (aligned_inside ha) hk
  rw [State.readBytes_poke hm ha, splitBytes_getElem? _ hk] at hread
  exact (Option.some.inj hread).symm

/-! ### The fetch -/

/-- The word of two bytes, the more significant one first. -/
theorem ofNat_twoBytes (hi lo : Byte) : BitVec.ofNat 16 (2 ^ 8 * hi.toNat + lo.toNat) = hi ++ lo := by
  apply BitVec.eq_of_toNat_eq
  have hhi := hi.isLt
  have hlo := lo.isLt
  rw [BitVec.toNat_append, ← Nat.shiftLeft_add_eq_or_of_lt hlo, Nat.shiftLeft_eq, BitVec.toNat_ofNat]
  omega

/-- The halfword of the two bytes at rising addresses (rule R52). -/
def joinHalf : Endian → Byte → Byte → Half
  | .little, b0, b1 => b1 ++ b0
  | .big, b0, b1 => b0 ++ b1

theorem ofNat_memValue_half (e : Endian) (m : Memory) {a : Word} (ha : a.toNat % 2 = 0) :
    BitVec.ofNat 16 (memValue e m a .half) = joinHalf e (m.read a.toNat) (m.read (a.toNat + 1)) := by
  have hin : a.toNat + (1 + 1) ≤ 2 ^ 32 := aligned_inside (w := .half) ha
  have hnext := toNat_add_one hin (by decide)
  cases e with
  | little => rw [memValue, hnext, Nat.add_comm]; exact ofNat_twoBytes _ _
  | big => rw [memValue, hnext]; exact ofNat_twoBytes _ _

theorem State.peek_half (s : State) (a : Word) : (s.peek a .half).setWidth 16 = BitVec.ofNat 16 (s.value a .half) := by
  apply BitVec.eq_of_toNat_eq
  rw [BitVec.toNat_setWidth, State.peek_toNat, BitVec.toNat_ofNat]

theorem aligned_half {a : Word} : aligned a .half = true ↔ a.toNat % 2 = 0 :=
  aligned_iff

theorem State.fetch_ok {s : State} (hpc : s.pc.toNat % 2 = 0) (hadm : s.admits s.pc .half .fetch = true) :
    s.fetch = .ok (BitVec.ofNat 16 (s.value s.pc .half)) := by
  rw [State.fetch, if_neg (by simp [aligned_half.2 hpc]), if_neg (by simp [hadm]), State.peek_half]

theorem State.fetch_refused {s : State} (hpc : s.pc.toNat % 2 = 0) (hadm : s.admits s.pc .half .fetch = false) :
    s.fetch = .error (.prefetchAbort s.pc) := by
  rw [State.fetch, if_neg (by simp [aligned_half.2 hpc]), if_pos (by simp [hadm])]

/-- What a completed fetch reads. -/
theorem State.fetch_toNat {s : State} {r : Half} (h : s.fetch = .ok r) : r.toNat = s.value s.pc .half := by
  unfold State.fetch at h
  split at h
  · cases h
  · split at h
    · cases h
    · rw [← Except.ok.inj h, State.peek_half, BitVec.toNat_ofNat]
      exact Nat.mod_eq_of_lt (s.value_lt s.pc .half)

theorem step_of_fetch_ok {s : State} {w : Half} (ht : s.cpsr.t = true) (h : s.fetch = .ok w) :
    step s = exec (decode w) s := by
  rw [step, if_pos ht, h]

theorem step_of_fetch_error {s : State} {f : Fault} (ht : s.cpsr.t = true) (h : s.fetch = .error f) :
    step s = .fault f := by
  rw [step, if_pos ht, h]

/-- A step at an even pc whose fetch is admitted executes what the two bytes there decode to (rules R54, R308). -/
theorem step_eq_exec_joinHalf {s : State} (ht : s.cpsr.t = true) (hpc : s.pc.toNat % 2 = 0)
    (hadm : s.admits s.pc .half .fetch = true) :
    step s = exec (decode (joinHalf s.endian (s.mem.read s.pc.toNat) (s.mem.read (s.pc.toNat + 1)))) s := by
  rw [step_of_fetch_ok ht (State.fetch_ok hpc hadm), State.value, ofNat_memValue_half _ _ hpc]

end Sys2Proof.Machine
end

section
/-! The program's code: which accesses touch it, and that no instruction writes it; and which instructions write memory
(rules R57, R59, R66). -/

namespace Sys2Proof.Machine

/-! ### Accesses and the code range -/

/-- `x` is an address of `CODE_RANGE` (rule R66). -/
def State.InCode (s : State) (x : Nat) : Prop :=
  ∃ r ∈ s.codeRange, r.first ≤ x ∧ x ≤ r.last

theorem width_bytes_pos (w : Width) : 0 < w.bytes := by
  cases w <;> decide

/-- An access touches a run of addresses when they share a byte, such as the higher of their first bytes. -/
theorem AddrRange.touches_iff {r : AddrRange} {a : Word} {w : Width} :
    r.touches a w = true ↔ ∃ x, bytesAt a w.bytes x ∧ r.first ≤ x ∧ x ≤ r.last := by
  have hw := width_bytes_pos w
  simp only [AddrRange.touches, bytesAt, Bool.and_eq_true, decide_eq_true_eq]
  constructor
  · rintro ⟨⟨hr, hfirst⟩, hlast⟩
    exact ⟨max r.first a.toNat, by omega⟩
  · rintro ⟨x, hx, hfirst, hlast⟩
    omega

theorem State.touchesCode_iff {s : State} {a : Word} {w : Width} :
    s.touchesCode a w = true ↔ ∃ r ∈ s.codeRange, ∃ x, bytesAt a w.bytes x ∧ r.first ≤ x ∧ x ≤ r.last := by
  simp only [State.touchesCode, List.any_eq_true, AddrRange.touches_iff]

/-- No byte of a write that completes is in the code (rule R66). -/
theorem State.Writable.not_bytesAt_of_inCode {s : State} {a : Word} {w : Width} (hw : s.Writable a w) {x : Nat}
    (hx : s.InCode x) : ¬ bytesAt a w.bytes x := by
  obtain ⟨r, hr, hfirst, hlast⟩ := hx
  intro hb
  have htouch := State.touchesCode_iff.2 ⟨r, hr, x, hb, hfirst, hlast⟩
  rw [hw.notCode] at htouch
  cases htouch

/-! ### Bytes a transfer leaves -/

/-- Words written without a stop leave every byte outside them, however many they are. -/
theorem State.storeWords_read_other {s t : State} {a : Word} {vs : List Word} (hm : s.mem.wf = true)
    (h : s.storeWords a vs = .ok t) {x : Nat} (hx : ¬ wordsAt a vs.length x) : t.mem.read x = s.mem.read x := by
  induction vs generalizing s a with
  | nil => cases h; rfl
  | cons v vs ih =>
    simp only [State.storeWords] at h
    split at h
    · cases h
    · obtain ⟨hw, rfl⟩ := State.memWrite_cases ‹_›
      have hfirst : ¬ bytesAt a Width.word.bytes x := fun hb => hx ⟨0, Nat.succ_pos _, by rwa [slot_zero]⟩
      have hrest : ¬ wordsAt (a + 4) vs.length x := fun ⟨k, hk, hb⟩ =>
        hx ⟨k + 1, Nat.succ_lt_succ hk, by rwa [← slot_succ]⟩
      rw [ih (State.poke_wf hm a .word v) h hrest, State.read_poke_other hm hw.aligned v hfirst]

theorem State.storeWords_read_code {s t : State} {a : Word} {vs : List Word} (hm : s.mem.wf = true)
    (h : s.storeWords a vs = .ok t) {x : Nat} (hx : s.InCode x) : t.mem.read x = s.mem.read x := by
  obtain ⟨-, -, hw⟩ := State.storeWords_cases h
  exact State.storeWords_read_other hm h fun ⟨k, hk, hb⟩ => (hw k hk).not_bytesAt_of_inCode hx hb

/-! ### Every instruction -/

/-- The kinds of instruction that write memory (rule R57). -/
def storeKinds : List Kind :=
  [.store, .storeMany]

theorem Writes.mem_of_not_storeKind {s u : State} {k : Kind} (hw : Writes s k u) (hk : k ∉ storeKinds) :
    u.mem = s.mem := by
  cases hw with
  | store | push | stmia => exact absurd (by decide) hk
  | pop | ldmia => simp
  | _ => rfl

/-- A completed store leaves the program's code (rule R66). -/
theorem Writes.read_code {s u : State} {k : Kind} (hw : Writes s k u) (hm : s.mem.wf = true) {x : Nat}
    (hx : s.InCode x) : u.mem.read x = s.mem.read x := by
  cases hw with
  | store a w v ha => exact State.read_poke_other hm ha.aligned v (ha.not_bytesAt_of_inCode hx)
  | push a vs m v h | stmia a vs m rb v h => exact State.storeWords_read_code hm h hx
  | pop | ldmia => simp
  | _ => rfl

theorem State.exchange_mem {s t : State} {v : Word} (h : s.exchange v = .next t) : t.mem = s.mem := by
  rcases State.exchange_cases h with ⟨-, rfl⟩ | ⟨-, rfl⟩ <;> rfl

/-- Memory after an instruction is as its writes before going on to the next halfword leave it, or as before. -/
theorem Completes.mem_cases {s t : State} {i : Instr} (h : Completes s i t) :
    (∃ u, Writes s (kindOf i) u ∧ t.mem = u.mem) ∨ t.mem = s.mem := by
  cases h with
  | goesOn _ hw => exact .inl ⟨_, hw, rfl⟩
  | branchIf | branch | writesR15 | blLow | swi => exact .inr rfl
  | popPc rlist l v a => exact .inr (State.setLos_mem s l)
  | exchange v _ hx => exact .inr (State.exchange_mem hx)

end Sys2Proof.Machine
end

section
/-! The statements of the memory family. -/

namespace Sys2Proof.Proofs

open Sys2Proof.Machine

/-- Settles O28: the checks of an access in the order of rule R56, then the transfer. -/
theorem accessChecks : Obligations.AccessChecks := by
  intro s a w v
  refine ⟨fun ha => ⟨State.memRead_unaligned ha, State.memWrite_unaligned v ha⟩,
    fun ha => ⟨State.memRead_refused ha, fun hadm => ?_, State.memWrite_code v ha, State.memWrite_refused v ha,
      fun hcode hadm => ?_⟩,
    State.touchesCode_iff,
    fun hpc hadm => ⟨State.fetch_refused hpc hadm, fun ht => step_of_fetch_error ht (State.fetch_refused hpc hadm)⟩⟩
  · exact ⟨s.peek a w, State.memRead_ok ⟨ha, hadm⟩, State.peek_toNat s a w⟩
  · refine ⟨s.poke a w v, State.memWrite_ok ⟨ha, hcode, hadm⟩ v, rfl, rfl, fun hm => ?_⟩
    exact ⟨State.value_poke hm ha v, fun _ _ => rfl, fun _ hx => State.read_poke_other hm ha v hx,
      rfl, rfl, rfl, rfl, rfl⟩

/-- Settles O29: a store lays out the bytes of its value, a load and a fetch join them, in the order of the state. -/
theorem byteOrderOfAccesses : Obligations.ByteOrderOfAccesses := by
  refine ⟨fun s a w v k hm ha hk => ?_, fun s a w r h => ?_, fun s r h => State.fetch_toNat h,
    fun i s t h => (exec_completes h).platform.1, rfl⟩
  · rw [State.read_poke hm ha v hk, BitVec.toNat_ofNat]
    cases s.endian <;> rfl
  · obtain ⟨-, rfl⟩ := State.memRead_cases h
    exact State.peek_toNat s a w

/-- Settles O30: a completed write is the store of the value's bytes, and a completed read joins them again. -/
theorem readReturnsLastWrite : Obligations.ReadReturnsLastWrite := by
  intro s t a w v r hm h
  obtain ⟨hw, rfl⟩ := State.memWrite_cases h
  refine ⟨rfl, fun x hx => State.read_poke_other hm hw.aligned v hx, fun hr => ?_⟩
  obtain ⟨-, rfl⟩ := State.memRead_cases hr
  rw [State.peek_toNat, State.value_poke hm hw.aligned v]

/-- Settles O31: the laws of one byte written, and of memories that read alike. -/
theorem memoryCanonical : Obligations.MemoryCanonical := by
  intro m k hm
  exact ⟨fun a b ha => ⟨Memory.wf_write hm ha b, fun x => Memory.read_write hm a x b⟩,
    fun hk hread => Memory.ext_read hm hk hread⟩

/-- Settles O55: what changes memory is a write of a store, PUSH or STMIA, each outside the code. -/
theorem memoryWrittenByKind : Obligations.MemoryWrittenByKind := by
  intro i s t h
  rcases (exec_completes h).mem_cases with ⟨u, hw, hmem⟩ | hmem
  · rw [hmem]
    exact ⟨hw.mem_of_not_storeKind, fun hm r hr x hfirst hlast => hw.read_code hm ⟨r, hr, hfirst, hlast⟩⟩
  · rw [hmem]
    exact ⟨fun _ => rfl, fun _ _ _ _ _ _ => rfl⟩

/-- Settles O7: the fetch at an even, admitted pc gives the two bytes joined in the state's order. -/
theorem stepRunsDecoded : Obligations.StepRunsDecoded := by
  rintro s i b0 b1 ht hpc hadm rfl rfl rfl
  refine (step_eq_exec_joinHalf ht hpc hadm).trans ?_
  cases s.endian <;> rfl

end Sys2Proof.Proofs
end

section
/-! Every word is the word of what it decodes to: the fields a meaning is read from, joined again, are the word (rules
R80 to R99, R110 to R112). -/

namespace Sys2Proof

/-! ### Fields of a word -/

@[simp] theorem toBits_loAt (w : Half) (lo : Nat) : (loAt w lo).toBits = field w lo 3 :=
  LoReg.toBits_ofBits _

@[simp] theorem toBits_hiAt (w : Half) (lo : Nat) : (hiAt w lo).toBits = field w lo 3 :=
  HiReg.toBits_ofBits _

/-- A known field followed by the field below it. -/
theorem append_field {w : Half} {hi m : Nat} {a : BitVec m} (ha : field w hi m = a) (lo k : Nat) (h : hi = lo + k) :
    a ++ field w lo k = field w lo (m + k) := by
  subst ha h
  exact extract_join w lo m k

theorem field_append {w : Half} {hi lo m k : Nat} {a : BitVec m} {b : BitVec k} (ha : field w hi m = a)
    (hb : field w lo k = b) (h : hi = lo + k) : field w lo (m + k) = a ++ b :=
  hb ▸ (append_field ha lo k h).symm

/-- A part of a known field. -/
theorem field_of_field {w : Half} {lo n : Nat} {a : BitVec n} (ha : field w lo n = a) (k m : Nat) (h : k + m ≤ n) :
    field w (lo + k) m = a.extractLsb' k m := by
  subst ha
  apply BitVec.eq_of_getLsbD_eq
  intro i hi
  simp only [field, BitVec.getLsbD_extractLsb', hi, decide_true, Bool.true_and, show k + i < n by omega, Nat.add_assoc]

/-! ### The layouts of a word -/

theorem word_of_op_two {w : Half} {op : BitVec 10} (h : field w 6 10 = op) :
    op ++ field w 3 3 ++ field w 0 3 = w :=
  (append_field (append_field h 3 3 rfl).symm 0 3 rfl).trans (extract_all w)

theorem word_of_op_three {w : Half} {op : BitVec 7} (h : field w 9 7 = op) :
    op ++ field w 6 3 ++ field w 3 3 ++ field w 0 3 = w :=
  word_of_op_two (append_field h 6 3 rfl).symm

theorem word_of_op_imm5 {w : Half} {op : BitVec 5} (h : field w 11 5 = op) :
    op ++ field w 6 5 ++ field w 3 3 ++ field w 0 3 = w :=
  word_of_op_two (append_field h 6 5 rfl).symm

theorem word_of_op_imm8 {w : Half} {op : BitVec 5} (h : field w 11 5 = op) : op ++ field w 8 3 ++ field w 0 8 = w :=
  (append_field (append_field h 8 3 rfl).symm 0 8 rfl).trans (extract_all w)

/-- Where several values of a field `a` decode alike, only its upper bits are fixed bits of the word. -/
theorem append_upper_rest {w : Half} {hi lo p n : Nat} {b : BitVec p} {a : BitVec n} (hb : field w hi p = b)
    (ha : field w lo n = a) (k m : Nat) (hk : k + m = n) (h : hi = lo + n) :
    b ++ a.extractLsb' k m ++ field w 0 (lo + k) = field w 0 (p + m + (lo + k)) :=
  append_field (field_append hb (field_of_field ha k m hk.le) (by omega)) 0 (lo + k) (by omega)

/-! ### The parts of the decoder -/

theorem encode_decodeAddSub {w : Half} (h : field w 11 5 = 0b00011#5) : encode (decodeAddSub w) = w := by
  have hw (op : BitVec 2) (hop : field w 9 2 = op) := word_of_op_three (field_append h hop rfl)
  unfold decodeAddSub
  split
  all_goals simp only [encode, toBits_loAt]
  case h_4 => exact (hw 0b11#2 (by simp only [imp_false] at *; bv_omega) :)
  all_goals exact (hw _ ‹_› :)

theorem encode_decodeAlu {w : Half} (h : field w 10 6 = 0b010000#6) : encode (decodeAlu w) = w := by
  have hw (op : BitVec 4) (hop : field w 6 4 = op) := word_of_op_two (field_append h hop rfl)
  unfold decodeAlu
  split
  all_goals simp only [encode, toBits_loAt]
  case h_16 => exact (hw 0b1111#4 (by simp only [imp_false] at *; bv_omega) :)
  all_goals exact (hw _ ‹_› :)

theorem encode_decodeHi {w : Half} (h : field w 10 6 = 0b010001#6) : encode (decodeHi w) = w := by
  have hregs (op : BitVec 4) (hop : field w 6 4 = op) := word_of_op_two (field_append h hop rfl)
  have hundef (op : BitVec 4) (hop : field w 6 4 = op) : 0b010001#6 ++ op ++ field w 0 6 = w :=
    (append_field (field_append h hop rfl) 0 6 rfl).trans (extract_all w)
  have hbx (op : BitVec 4) (hop : field w 6 4 = op) : 0b010001#6 ++ op.extractLsb' 1 3 ++ field w 0 7 = w :=
    (append_upper_rest h hop 1 3 rfl rfl).trans (extract_all w)
  unfold decodeHi
  split
  all_goals simp only [encode, toBits_loAt, toBits_hiAt]
  case h_1 hop | h_5 hop | h_9 hop => exact (hundef _ hop :)
  case h_15 =>
    have hop : field w 6 4 = 0b1110#4 ∨ field w 6 4 = 0b1111#4 := by simp only [imp_false] at *; bv_omega
    rcases hop with hop | hop <;> exact (hbx _ hop :)
  all_goals exact (hregs _ ‹_› :)

theorem encode_decodeRegOffset {w : Half} (h : field w 12 4 = 0b0101#4) : encode (decodeRegOffset w) = w := by
  have hw (op : BitVec 3) (hop : field w 9 3 = op) := word_of_op_three (field_append h hop rfl)
  unfold decodeRegOffset
  split
  all_goals simp only [encode, toBits_loAt]
  case h_8 => exact (hw 0b111#3 (by simp only [imp_false] at *; bv_omega) :)
  all_goals exact (hw _ ‹_› :)

theorem encode_decodeMisc {w : Half} (h : field w 12 4 = 0b1011#4) : encode (decodeMisc w) = w := by
  have hsp (op : BitVec 1) (hop : field w 8 4 = 0#4) (hs : field w 7 1 = op) :
      0b1011#4 ++ 0#4 ++ op ++ field w 0 7 = w :=
    (append_field (field_append (field_append h hop rfl) hs rfl) 0 7 rfl).trans (extract_all w)
  have hlist (op : BitVec 4) (hop : field w 8 4 = op) : 0b1011#4 ++ op ++ field w 0 8 = w :=
    (append_field (field_append h hop rfl) 0 8 rfl).trans (extract_all w)
  have htwo (op : BitVec 4) (hop : field w 8 4 = op) : 0b1011#4 ++ op.extractLsb' 1 3 ++ field w 0 9 = w :=
    (append_upper_rest h hop 1 3 rfl rfl).trans (extract_all w)
  have hfour (op : BitVec 4) (hop : field w 8 4 = op) : 0b1011#4 ++ op.extractLsb' 2 2 ++ field w 0 10 = w :=
    (append_upper_rest h hop 2 2 rfl rfl).trans (extract_all w)
  unfold decodeMisc
  split
  case h_1 hop =>
    split
    case isTrue hs => exact (hsp _ hop hs :)
    case isFalse hs => exact (hsp 1#1 hop (by bv_omega) :)
  all_goals simp only [encode]
  case h_3 hop | h_4 hop | h_7 hop | h_8 hop | h_11 hop | h_12 hop => exact (htwo _ hop :)
  case h_13 =>
    have hop : field w 8 4 = 8#4 ∨ field w 8 4 = 9#4 ∨ field w 8 4 = 10#4 ∨ field w 8 4 = 11#4 := by
      simp only [imp_false] at *; bv_omega
    rcases hop with hop | hop | hop | hop <;> exact (hfour _ hop :)
  all_goals exact (hlist _ ‹_› :)

theorem encode_decodeCond {w : Half} (h : field w 12 4 = 0b1101#4) : encode (decodeCond w) = w := by
  have hw (op : BitVec 4) (hop : field w 8 4 = op) : 0b1101#4 ++ op ++ field w 0 8 = w :=
    (append_field (field_append h hop rfl) 0 8 rfl).trans (extract_all w)
  unfold decodeCond
  split
  all_goals simp only [encode]
  case h_16 => exact (hw 0b1111#4 (by simp only [imp_false] at *; bv_omega) :)
  all_goals exact (hw _ ‹_› :)

/-! ### The decoder -/

theorem encode_decode (w : Half) : encode (decode w) = w := by
  have hrest (op : BitVec 5) (h : field w 11 5 = op) : op ++ field w 0 11 = w :=
    (append_field h 0 11 rfl).trans (extract_all w)
  unfold decode
  split
  case h_4 h => exact encode_decodeAddSub h
  case h_9 h =>
    split
    case isTrue h10 => exact encode_decodeAlu (field_append h h10 rfl)
    case isFalse h10 => exact encode_decodeHi (field_append (b := 1#1) h (by bv_omega) rfl)
  case h_11 h | h_12 h => exact encode_decodeRegOffset (field_of_field h 1 4 (by decide))
  case h_23 h | h_24 h => exact encode_decodeMisc (field_of_field h 1 4 (by decide))
  case h_27 h | h_28 h => exact encode_decodeCond (field_of_field h 1 4 (by decide))
  all_goals simp only [encode, toBits_loAt]
  case h_1 h | h_2 h | h_3 h | h_13 h | h_14 h | h_15 h | h_16 h | h_17 h | h_18 h => exact (word_of_op_imm5 h :)
  case h_29 h | h_30 h | h_31 h => exact (hrest _ h :)
  case h_32 => exact (hrest 0b11111#5 (by simp only [imp_false] at *; bv_omega) :)
  all_goals exact (word_of_op_imm8 ‹field w 11 5 = _› :)

end Sys2Proof
end

section
/-! Every instruction is what its word decodes to: each field the decoder reads is the part the encoder put there (rules
R80 to R99, R110 to R112). -/

namespace Sys2Proof

/-! ### The parts of a word -/

@[simp] theorem field_op_imm5 (op imm : BitVec 5) (y x : BitVec 3) : field (op ++ imm ++ y ++ x) 11 5 = op :=
  (field_op_two (op ++ imm) y x (by decide)).trans ((extract_append_high op imm _ _ le_rfl).trans (extract_all op))

@[simp] theorem field_imm5 (op imm : BitVec 5) (y x : BitVec 3) : field (op ++ imm ++ y ++ x) 6 5 = imm :=
  (field_op_two (op ++ imm) y x le_rfl).trans ((extract_append_low op imm _ _ le_rfl).trans (extract_all imm))

@[simp] theorem field_op_imm8 (op : BitVec 5) (y : BitVec 3) (x : BitVec 8) : field (op ++ y ++ x) 11 5 = op := by
  rw [field, extract_append_high _ _ _ _ (by decide), extract_append_high _ _ _ _ (by decide)]
  exact extract_all op

@[simp] theorem field_reg_imm8 (op : BitVec 5) (y : BitVec 3) (x : BitVec 8) : field (op ++ y ++ x) 8 3 = y := by
  rw [field, extract_append_high _ _ _ _ le_rfl, extract_append_low _ _ _ _ le_rfl]
  exact extract_all y

@[simp] theorem field_imm8 (op : BitVec 5) (y : BitVec 3) (x : BitVec 8) : field (op ++ y ++ x) 0 8 = x := by
  rw [field, extract_append_low _ _ _ _ le_rfl, extract_all]

/-- A field across the boundary of two parts. -/
theorem extract_append_across {m n : Nat} (x : BitVec m) (y : BitVec n) (lo j k : Nat) (h : n = lo + k) :
    (x ++ y).extractLsb' lo (j + k) = x.extractLsb' 0 j ++ y.extractLsb' lo k := by
  subst h
  rw [← extract_join, extract_append_high _ _ _ _ le_rfl, extract_append_low _ _ _ _ le_rfl, Nat.sub_self]

theorem two_bits_cases (b : BitVec 2) : b = 0#2 ∨ b = 1#2 ∨ b = 2#2 ∨ b = 3#2 := by
  revert b
  decide

/-! ### The decoder -/

/-- By layout: two or three registers, a register and an immediate, or operation bits and one operand. The decoder reads
the last five blocks of undefined words by a field that reaches into the operand, so there every value of those operand
bits is a case. -/
theorem decode_encode (i : Instr) : decode (encode i) = i := by
  cases i with
  | lslImm | lsrImm | asrImm | strImm | ldrImm | strbImm | ldrbImm | strhImm | ldrhImm => simp [encode, decode, loAt]
  | movImm | cmpImm | addImm8 | subImm8 | ldrPc | strSp | ldrSp | addPc | addSpRd | stmia | ldmia =>
    simp [encode, decode, loAt]
  | addReg | addImm3 | subReg | subImm3 => simp [encode, decode, decodeAddSub, loAt]
  | strReg | strbReg | ldrReg | ldrbReg | strhReg | ldrhReg | ldsbReg | ldshReg =>
    simp [encode, decode, decodeRegOffset, loAt]
  | andReg | eorReg | lslReg | lsrReg | asrReg | adcReg | sbcReg | rorReg | tstReg | negReg | cmpReg | cmnReg | orrReg
  | mulReg | bicReg | mvnReg => simp [encode, decode, decodeAlu, loAt]
  | addLoHi | addHiLo | addHiHi | cmpLoHi | cmpHiLo | cmpHiHi | movLoHi | movHiLo | movHiHi | bxLo | bxHi =>
    simp [encode, decode, decodeHi, loAt, hiAt]
  | b | blHigh | blLow | undefE8EF =>
    simp [encode, decode, field, extract_append_high (m := 5) (n := 11), extract_append_low (m := 5) (n := 11)]
  | push | pushLr | pop | popPc | undefB1 =>
    simp [encode, decode, decodeMisc, field, extract_append_high (m := 8) (n := 8),
      extract_append_low (m := 8) (n := 8)]
  | beq | bne | bcs | bcc | bmi | bpl | bvs | bvc | bhi | bls | bge | blt | bgt | ble | undefCond1110 | swi =>
    simp [encode, decode, decodeCond, field, extract_append_high (m := 8) (n := 8),
      extract_append_low (m := 8) (n := 8)]
  | addSpPos | addSpNeg =>
    simp [encode, decode, decodeMisc, field, extract_append_high (m := 9) (n := 7),
      extract_append_low (m := 9) (n := 7)]
  | undefAddLoLo | undefCmpLoLo | undefMovLoLo =>
    simp [encode, decode, decodeHi, field, extract_append_high (m := 10) (n := 6),
      extract_append_low (m := 10) (n := 6)]
  | undefBxH1 x =>
    obtain h | h := BitVec.eq_zero_or_eq_one (x.extractLsb' 6 1)
    all_goals simp [encode, decode, decodeHi, field, extract_append_high (m := 9) (n := 7),
      extract_append_low (m := 9) (n := 7), extract_append_across (m := 9) (n := 7) _ _ 6 3 1, h]
  | undefB2B3 x | undefB6B7 x | undefBEBF x =>
    obtain h | h := BitVec.eq_zero_or_eq_one (x.extractLsb' 8 1)
    all_goals simp [encode, decode, decodeMisc, field, extract_append_high (m := 7) (n := 9),
      extract_append_low (m := 7) (n := 9), extract_append_across (m := 7) (n := 9) _ _ 8 3 1, h]
  | undefB8BB x =>
    obtain h | h | h | h := two_bits_cases (x.extractLsb' 8 2)
    all_goals simp [encode, decode, decodeMisc, field, extract_append_high (m := 6) (n := 10),
      extract_append_low (m := 6) (n := 10), extract_append_across (m := 6) (n := 10) _ _ 8 2 2, h]

/-- Words that are those of instructions decode to them. -/
theorem decode_and_encode_of_forall {l : List (Half × Instr)} (h : l.Forall fun e => encode e.2 = e.1) :
    ∀ e ∈ l, decode e.1 = e.2 ∧ encode e.2 = e.1 := by
  intro e he
  have henc : encode e.2 = e.1 := List.forall_iff_forall_mem.1 h e he
  exact ⟨henc ▸ decode_encode e.2, henc⟩

end Sys2Proof
end

section
/-! The rows of the opcode table as ranges of words: in ascending order each row begins where the one before it ends, so
a word lies in one row only, that of what it decodes to (rules R110 to R112). -/

namespace Sys2Proof

open Laws

/-! ### The range of a row -/

/-- The words of a row, from its match value to that value with every bit outside the mask set. -/
def InRow (r : Half × Half) (w : Half) : Prop :=
  r.2.toNat ≤ w.toNat ∧ w.toNat ≤ r.2.toNat + (~~~r.1).toNat

theorem inRow_of_match {r : Half × Half} {w : Half} (h : w &&& r.1 = r.2) : InRow r w := by
  have hsplit : w = (w &&& r.1) + (w &&& ~~~r.1) := by
    rw [BitVec.add_eq_or_of_and_eq_zero]
    · ext i; simp only [BitVec.getElem_or, BitVec.getElem_and, BitVec.getElem_not]; cases w[i] <;> simp
    · ext i; cases hi : r.1[i] <;> simp [hi]
  have hlow : (w &&& r.1).toNat ≤ w.toNat := BitVec.toNat_and w r.1 ▸ Nat.and_le_left
  have hrest : (w &&& ~~~r.1).toNat ≤ (~~~r.1).toNat := BitVec.toNat_and w _ ▸ Nat.and_le_right
  have hsum := congrArg BitVec.toNat hsplit
  rw [BitVec.toNat_add] at hsum
  rw [InRow, ← h]
  omega

/-- The words of the row `r` lie below those of the row `q`. -/
def RowBelow (r q : Half × Half) : Prop :=
  r.2.toNat + (~~~r.1).toNat < q.2.toNat

theorem RowBelow.trans {r q p : Half × Half} (h : RowBelow r q) (h' : RowBelow q p) : RowBelow r p := by
  unfold RowBelow at *
  omega

theorem RowBelow.not_both {r q : Half × Half} (h : RowBelow r q) {w : Half} (hr : InRow r w) : ¬ InRow q w := by
  unfold RowBelow InRow at *
  omega

/-! ### The rows -/

/-- The rows of the opcode table in ascending order, each by its mask and its match value (rule R110). -/
def opcodeTable : List (Half × Half) :=
  [(0xF800#16, 0x0000#16), (0xF800#16, 0x0800#16), (0xF800#16, 0x1000#16), (0xFE00#16, 0x1800#16),
    (0xFE00#16, 0x1A00#16), (0xFE00#16, 0x1C00#16), (0xFE00#16, 0x1E00#16), (0xF800#16, 0x2000#16),
    (0xF800#16, 0x2800#16), (0xF800#16, 0x3000#16), (0xF800#16, 0x3800#16), (0xFFC0#16, 0x4000#16),
    (0xFFC0#16, 0x4040#16), (0xFFC0#16, 0x4080#16), (0xFFC0#16, 0x40C0#16), (0xFFC0#16, 0x4100#16),
    (0xFFC0#16, 0x4140#16), (0xFFC0#16, 0x4180#16), (0xFFC0#16, 0x41C0#16), (0xFFC0#16, 0x4200#16),
    (0xFFC0#16, 0x4240#16), (0xFFC0#16, 0x4280#16), (0xFFC0#16, 0x42C0#16), (0xFFC0#16, 0x4300#16),
    (0xFFC0#16, 0x4340#16), (0xFFC0#16, 0x4380#16), (0xFFC0#16, 0x43C0#16), (0xFFC0#16, 0x4400#16),
    (0xFFC0#16, 0x4440#16), (0xFFC0#16, 0x4480#16), (0xFFC0#16, 0x44C0#16), (0xFFC0#16, 0x4500#16),
    (0xFFC0#16, 0x4540#16), (0xFFC0#16, 0x4580#16), (0xFFC0#16, 0x45C0#16), (0xFFC0#16, 0x4600#16),
    (0xFFC0#16, 0x4640#16), (0xFFC0#16, 0x4680#16), (0xFFC0#16, 0x46C0#16), (0xFFC0#16, 0x4700#16),
    (0xFFC0#16, 0x4740#16), (0xFF80#16, 0x4780#16), (0xF800#16, 0x4800#16), (0xFE00#16, 0x5000#16),
    (0xFE00#16, 0x5200#16), (0xFE00#16, 0x5400#16), (0xFE00#16, 0x5600#16), (0xFE00#16, 0x5800#16),
    (0xFE00#16, 0x5A00#16), (0xFE00#16, 0x5C00#16), (0xFE00#16, 0x5E00#16), (0xF800#16, 0x6000#16),
    (0xF800#16, 0x6800#16), (0xF800#16, 0x7000#16), (0xF800#16, 0x7800#16), (0xF800#16, 0x8000#16),
    (0xF800#16, 0x8800#16), (0xF800#16, 0x9000#16), (0xF800#16, 0x9800#16), (0xF800#16, 0xA000#16),
    (0xF800#16, 0xA800#16), (0xFF80#16, 0xB000#16), (0xFF80#16, 0xB080#16), (0xFF00#16, 0xB100#16),
    (0xFE00#16, 0xB200#16), (0xFF00#16, 0xB400#16), (0xFF00#16, 0xB500#16), (0xFE00#16, 0xB600#16),
    (0xFC00#16, 0xB800#16), (0xFF00#16, 0xBC00#16), (0xFF00#16, 0xBD00#16), (0xFE00#16, 0xBE00#16),
    (0xF800#16, 0xC000#16), (0xF800#16, 0xC800#16), (0xFF00#16, 0xD000#16), (0xFF00#16, 0xD100#16),
    (0xFF00#16, 0xD200#16), (0xFF00#16, 0xD300#16), (0xFF00#16, 0xD400#16), (0xFF00#16, 0xD500#16),
    (0xFF00#16, 0xD600#16), (0xFF00#16, 0xD700#16), (0xFF00#16, 0xD800#16), (0xFF00#16, 0xD900#16),
    (0xFF00#16, 0xDA00#16), (0xFF00#16, 0xDB00#16), (0xFF00#16, 0xDC00#16), (0xFF00#16, 0xDD00#16),
    (0xFF00#16, 0xDE00#16), (0xFF00#16, 0xDF00#16), (0xF800#16, 0xE000#16), (0xF800#16, 0xE800#16),
    (0xF800#16, 0xF000#16), (0xF800#16, 0xF800#16)]

theorem tableRow_mem (i : Instr) : i.tableRow ∈ opcodeTable := by
  cases i <;> (simp only [Instr.tableRow]; decide +kernel)

theorem opcodeTable_ascending : opcodeTable.Pairwise RowBelow := by
  have : Trans RowBelow RowBelow RowBelow := ⟨RowBelow.trans⟩
  have hchain : opcodeTable.IsChain RowBelow := by
    unfold RowBelow
    decide +kernel
  exact hchain.pairwise

theorem row_unique {r q : Half × Half} (hr : r ∈ opcodeTable) (hq : q ∈ opcodeTable) {w : Half} (hwr : InRow r w)
    (hwq : InRow q w) : r = q := by
  have hsep : opcodeTable.Pairwise fun a b => RowBelow a b ∨ RowBelow b a := opcodeTable_ascending.imp .inl
  have : Std.Symm fun a b => RowBelow a b ∨ RowBelow b a := ⟨fun _ _ => Or.symm⟩
  by_contra hne
  obtain h | h := hsep.forall hr hq hne
  · exact h.not_both hwr hwq
  · exact h.not_both hwq hwr

/-! ### The row of a word -/

/-- The word of every instruction lies in its row. -/
theorem encode_matches_row : ∀ i, RowMatch.Statement i :=
  Instr.rec (motive := RowMatch.Statement) RowMatch.lslImm RowMatch.lsrImm RowMatch.asrImm RowMatch.addReg
    RowMatch.addImm3 RowMatch.subReg RowMatch.subImm3 RowMatch.movImm RowMatch.cmpImm RowMatch.addImm8
    RowMatch.subImm8 RowMatch.andReg RowMatch.eorReg RowMatch.lslReg RowMatch.lsrReg RowMatch.asrReg RowMatch.adcReg
    RowMatch.sbcReg RowMatch.rorReg RowMatch.tstReg RowMatch.negReg RowMatch.cmpReg RowMatch.cmnReg RowMatch.orrReg
    RowMatch.mulReg RowMatch.bicReg RowMatch.mvnReg RowMatch.addLoHi RowMatch.addHiLo RowMatch.addHiHi
    RowMatch.cmpLoHi RowMatch.cmpHiLo RowMatch.cmpHiHi RowMatch.movLoHi RowMatch.movHiLo RowMatch.movHiHi
    RowMatch.bxLo RowMatch.bxHi RowMatch.undefAddLoLo RowMatch.undefCmpLoLo RowMatch.undefMovLoLo RowMatch.undefBxH1
    RowMatch.ldrPc RowMatch.strReg RowMatch.strbReg RowMatch.ldrReg RowMatch.ldrbReg RowMatch.strhReg
    RowMatch.ldrhReg RowMatch.ldsbReg RowMatch.ldshReg RowMatch.strImm RowMatch.ldrImm RowMatch.strbImm
    RowMatch.ldrbImm RowMatch.strhImm RowMatch.ldrhImm RowMatch.strSp RowMatch.ldrSp RowMatch.addPc RowMatch.addSpRd
    RowMatch.addSpPos RowMatch.addSpNeg RowMatch.push RowMatch.pushLr RowMatch.pop RowMatch.popPc RowMatch.stmia
    RowMatch.ldmia RowMatch.beq RowMatch.bne RowMatch.bcs RowMatch.bcc RowMatch.bmi RowMatch.bpl RowMatch.bvs
    RowMatch.bvc RowMatch.bhi RowMatch.bls RowMatch.bge RowMatch.blt RowMatch.bgt RowMatch.ble RowMatch.undefCond1110
    RowMatch.swi RowMatch.b RowMatch.blHigh RowMatch.blLow RowMatch.undefB1 RowMatch.undefB2B3 RowMatch.undefB6B7
    RowMatch.undefB8BB RowMatch.undefBEBF RowMatch.undefE8EF

theorem decode_matches_row (w : Half) : w &&& (decode w).tableRow.1 = (decode w).tableRow.2 := by
  simpa only [RowMatch.Statement, encode_decode] using encode_matches_row (decode w)

theorem tableRow_decode_eq_iff {r : Half × Half} (hr : r ∈ opcodeTable) (w : Half) :
    (decode w).tableRow = r ↔ InRow r w :=
  ⟨fun h => h ▸ inRow_of_match (decode_matches_row w),
    fun h => row_unique (tableRow_mem _) hr (inRow_of_match (decode_matches_row w)) h⟩

/-! ### The undefined words -/

/-- The rows of rules R111 and R112, each by a word of its block. -/
def undefinedRows : List (Half × Half) :=
  [Instr.undefAddLoLo 0, .undefCmpLoLo 0, .undefMovLoLo 0, .undefBxH1 0, .undefB1 0, .undefB2B3 0, .undefB6B7 0,
    .undefB8BB 0, .undefBEBF 0, .undefCond1110 0, .undefE8EF 0].map Instr.tableRow

theorem isUndefined_iff_tableRow (i : Instr) : i.isUndefined = true ↔ i.tableRow ∈ undefinedRows := by
  cases i <;> (simp only [Instr.isUndefined, Instr.tableRow]; decide +kernel)

theorem isUndefined_decode_iff (w : Half) : (decode w).isUndefined = true ↔ ∃ r ∈ undefinedRows, InRow r w := by
  have hsub : ∀ r ∈ undefinedRows, r ∈ opcodeTable := by
    intro r hr
    obtain ⟨i, -, rfl⟩ := List.mem_map.1 hr
    exact tableRow_mem i
  rw [isUndefined_iff_tableRow]
  exact ⟨fun h => ⟨_, h, (tableRow_decode_eq_iff (hsub _ h) w).1 rfl⟩,
    fun ⟨r, hr, h⟩ => (tableRow_decode_eq_iff (hsub r hr) w).2 h ▸ hr⟩

end Sys2Proof
end

section
/-! What executing an undefined word and a shift by an immediate does (rules R100, R111, R112, R121 to R123, R302). -/

namespace Sys2Proof.Machine

/-! ### Undefined words -/

theorem exec_undefined {i : Instr} (h : i.isUndefined = true) (s : State) :
    exec i s = .fault (.undefinedInstruction (encode i) s.pc) := by
  cases i with
  | undefAddLoLo | undefCmpLoLo | undefMovLoLo | undefBxH1 | undefCond1110 | undefB1 | undefB2B3 | undefB6B7 | undefB8BB
  | undefBEBF | undefE8EF => rfl
  | _ => cases h

theorem decode_and_stop_of_forall {l : List (Instr × Half)}
    (h : l.Forall fun e => encode e.1 = e.2 ∧ e.1.isUndefined = true) (s : State) :
    ∀ e ∈ l, decode e.2 = e.1 ∧ exec e.1 s = .fault (.undefinedInstruction e.2 s.pc) := by
  intro e he
  obtain ⟨henc, hundef⟩ := List.forall_iff_forall_mem.1 h e he
  exact henc ▸ ⟨decode_encode e.1, exec_undefined hundef s⟩

/-! ### Shifts -/

/-- The result of a shift and its flags written, then on to the next halfword. -/
theorem State.next_of_setLo_flagsShift {s : State} (hp : s.pc.toNat + 2 < 2 ^ 32) (rd : LoReg) (r : ShiftResult) :
    ∃ t, ((s.setLo rd r.result).flagsShift r).advance = .next t ∧ FallsThrough s t [loPReg rd] ∧
      t.lo rd = r.result ∧ t.cpsr = s.cpsr.after (t.lo rd) r.carry s.cpsr.v := by
  obtain ⟨t, ht, hfall, hlo, hcpsr⟩ := State.next_of_setLo_setCpsr hp rd r.result (s.cpsr.withShift r)
  exact ⟨t, ht, hfall, hlo, by rw [hcpsr, hlo, Psr.withShift_eq]⟩

theorem rightShiftAmount_eq (imm : BitVec 5) : rightShiftAmount imm = if imm.toNat = 0 then 32 else imm.toNat := by
  simp only [rightShiftAmount, BitVec.toNat_eq]
  rfl

theorem rightShiftAmount_bounds (imm : BitVec 5) : rightShiftAmount imm ≠ 0 ∧ rightShiftAmount imm ≤ 32 := by
  rw [rightShiftAmount_eq]
  split <;> omega

theorem shiftRight_carry_of_le (v : Word) {n : Nat} (c : Bool) (hpos : n ≠ 0) (hle : n ≤ 32) :
    (shiftRight v n c).carry = v.getLsbD (n - 1) := by
  rw [shiftRight_carry, if_neg hpos, if_pos hle]

theorem shiftArith_carry_of_le (v : Word) {n : Nat} (c : Bool) (hpos : n ≠ 0) (hle : n ≤ 32) :
    (shiftArith v n c).carry = v.getLsbD (n - 1) := by
  rw [shiftArith_carry, if_neg hpos]
  obtain hlt | rfl := Nat.lt_or_eq_of_le hle
  · exact if_pos hlt
  · rfl

end Sys2Proof.Machine
end

section
/-! The statements of the encoding family. -/

namespace Sys2Proof.Proofs

open Sys2Proof.Machine

/-- Settles O1: layout by layout, the fields the decoder reads are the parts the encoder joined. -/
theorem decodeEncode : Obligations.DecodeEncode :=
  decode_encode

/-- Settles O2: in each branch of the decoder the fixed bits and the fields read join to the word. -/
theorem encodeDecode : Obligations.EncodeDecode :=
  encode_decode

/-- Settles O3: the rows are disjoint ranges, and a word lies in the row of what it decodes to. -/
theorem oneRowPerWord : Obligations.OneRowPerWord := by
  intro w i
  rw [tableRow_decode_eq_iff (tableRow_mem i)]
  refine ⟨inRow_of_match, fun h => ?_⟩
  rw [← (tableRow_decode_eq_iff (tableRow_mem i) w).2 h]
  exact decode_matches_row w

/-- Settles O4: the rows of the undefined blocks, as ranges, and the stop of what decodes to such a block. -/
theorem undefinedWords : Obligations.UndefinedWords := by
  intro w s inRange
  refine ⟨?_, fun h => by rw [exec_undefined h, encode_decode]⟩
  rw [isUndefined_decode_iff]
  simp only [undefinedRows, BitVec.ofNat_eq_ofNat, List.map_cons, Instr.tableRow, List.map_nil, List.mem_cons,
    List.not_mem_nil, or_false, InRow, BitVec.toNat_not, Nat.reducePow, Nat.add_one_sub_one, exists_eq_or_imp,
    exists_eq_left, BitVec.toNat_ofNat, Nat.reduceMod, Nat.reduceSub, Nat.reduceAdd, inRange]
  omega

/-- Settles O11: each shift by its result and carry, the amount of a right shift between 1 and 32. -/
theorem shiftImmediateResults : Obligations.ShiftImmediateResults := by
  intro s rd rs imm v n
  obtain ⟨hpos, hle⟩ := rightShiftAmount_bounds imm
  have hn : rightShiftAmount imm = n := rightShiftAmount_eq imm
  refine ⟨decode_encode (.lslImm rd rs imm), decode_encode (.lsrImm rd rs imm), decode_encode (.asrImm rd rs imm),
    fun hp => ⟨?_, ?_, ?_⟩⟩
  · obtain ⟨t, ht, hfall, hlo, hcpsr⟩ := State.next_of_setLo_flagsShift hp rd (shiftLeft v imm.toNat s.cpsr.c)
    refine ⟨t, ht, hfall, hlo ▸ shiftLeft_toNat .., ?_⟩
    rw [hcpsr, shiftLeft_carry, if_pos imm.isLt.le]
  · rw [← hn]
    obtain ⟨t, ht, hfall, hlo, hcpsr⟩ :=
      State.next_of_setLo_flagsShift hp rd (shiftRight v (rightShiftAmount imm) s.cpsr.c)
    refine ⟨t, ht, hfall, hlo ▸ shiftRight_toNat .., ?_⟩
    rw [hcpsr, shiftRight_carry_of_le v _ hpos hle]
  · rw [← hn]
    obtain ⟨t, ht, hfall, hlo, hcpsr⟩ :=
      State.next_of_setLo_flagsShift hp rd (shiftArith v (rightShiftAmount imm) s.cpsr.c)
    refine ⟨t, ht, hfall, hlo ▸ shiftArith_toInt .., ?_⟩
    rw [hcpsr, shiftArith_carry_of_le v _ hpos hle]

/-- Settles O33: a list is a part of the Lo registers, which are in ascending number, by its bits. -/
theorem listOrder : Obligations.ListOrder :=
  fun _ => ⟨fun _ => mem_listRegs, List.Pairwise.filter _ (by decide)⟩

/-- Settles O5: each word is that of its block's constructor. -/
theorem undefinedInstructionsStop : Obligations.UndefinedInstructionsStop := by
  intro s x6 x7 x8 x9 x10 x11
  exact decode_and_stop_of_forall (by repeat' constructor) s

/-- Settles O8: each word, its fixed bits written together, is the encoder's. -/
theorem formatWordsOneToSeven : Obligations.FormatWordsOneToSeven := by
  intro rd rs rn rb ro imm5 imm3 imm8
  exact decode_and_encode_of_forall (by repeat' constructor)

/-- Settles O9: each word, its fixed bits written together, is the encoder's. -/
theorem formatWordsNineToNineteen : Obligations.FormatWordsNineToNineteen := by
  intro rd rb imm5 imm8 imm7 imm11
  exact decode_and_encode_of_forall (by repeat' constructor)

end Sys2Proof.Proofs
end

section
/-! What MOV leaves: the flags of a logical result, for which a byte has no sign bit (rules R32, R132). -/

namespace Sys2Proof.Machine

/-- A result and its N and Z written, then on to the next halfword. -/
theorem State.next_of_setLo_flagsNZ {s : State} (hp : s.pc.toNat + 2 < 2 ^ 32) (rd : LoReg) (r : Word) :
    ∃ t, ((s.setLo rd r).flagsNZ r).advance = .next t ∧ FallsThrough s t [loPReg rd] ∧ t.lo rd = r ∧
      t.cpsr = s.cpsr.after r s.cpsr.c s.cpsr.v := by
  rw [← Psr.withNZ_eq]
  exact State.next_of_setLo_setCpsr hp rd r (s.cpsr.withNZ r)

/-- A byte zero-extended to a word is never negative. -/
theorem Psr.after_zext32_byte (p : Psr) (imm : BitVec 8) :
    p.after (zext32 imm) p.c p.v = { p with n := false, z := decide (imm.toNat = 0) } := by
  have hpos : ¬ 2 ^ 31 ≤ imm.toNat := by omega
  rw [Psr.after, zext32_toNat imm (by decide), decide_eq_false hpos]

end Sys2Proof.Machine
end

section
/-! The statements of format 3 and of the sample words. -/

namespace Sys2Proof.Proofs

open Sys2Proof.Machine

/-- Settles O13: MOV by the zero-extended byte and its flags, the others as a sum or a difference with that byte. -/
theorem immediateResults : Obligations.ImmediateResults := by
  intro s rd imm k
  have hk : zext32 imm = k := zext32_eq imm
  refine ⟨decode_encode (.movImm rd imm), decode_encode (.cmpImm rd imm), decode_encode (.addImm8 rd imm),
    decode_encode (.subImm8 rd imm), fun hp => ?_⟩
  rw [← hk]
  refine ⟨?_, ?_, ?_, ?_⟩
  · rw [← Psr.after_zext32_byte]
    exact State.next_of_setLo_flagsNZ hp rd (zext32 imm)
  · exact State.next_of_compare_diff hp (s.lo rd) (zext32 imm)
  · exact State.next_of_setLo_sum hp rd (isSum_addOp s.cpsr (s.lo rd) (zext32 imm))
  · exact State.next_of_setLo_diff hp rd (isDiff_subOp s.cpsr (s.lo rd) (zext32 imm))

/-- Settles O6: each word is the encoder's. -/
theorem sampleWords : Obligations.SampleWords :=
  ⟨decode_encode (.lslImm .r0 .r1 4), decode_encode (.addReg .r0 .r3 .r4), decode_encode (.addHiLo .r15 .r5),
    decode_encode (.bxHi .r11 0), decode_encode (.ldrPc .r3 211), decode_encode (.addSpPos 67),
    decode_encode (.pushLr 0x1F), decode_encode (.stmia .r0 0xF8), decode_encode (.beq 0),
    decode_encode (.swi 18), decode_encode (.b 0x7FE), decode_encode (.blHigh 1)⟩

end Sys2Proof.Proofs
end

section
/-! Logical results bit by bit, products, the amount of a shift by register, and the free values drawn (rules R140, R143,
R154; log entry 10). -/

namespace Sys2Proof.Machine

/-! ### Results with N and Z -/

/-- A result known bit by bit and its N and Z written, then on to the next halfword. -/
theorem State.next_of_setLo_bits {s : State} (hp : s.pc.toNat + 2 < 2 ^ 32) (rd : LoReg) {r : Word} {bit : Nat → Bool}
    (hbits : ∀ k, k < 32 → r.getLsbD k = bit k) :
    ∃ t, ((s.setLo rd r).flagsNZ r).advance = .next t ∧ FallsThrough s t [loPReg rd] ∧
      (∀ k, k < 32 → (t.lo rd).getLsbD k = bit k) ∧ t.cpsr = s.cpsr.after (t.lo rd) s.cpsr.c s.cpsr.v := by
  obtain ⟨t, ht, hfall, hlo, hcpsr⟩ := State.next_of_setLo_flagsNZ hp rd r
  exact ⟨t, ht, hfall, by rwa [hlo], by rw [hlo, hcpsr]⟩

/-- A test writes N and Z but no register (rule R149). -/
theorem State.next_of_flagsNZ {s : State} (hp : s.pc.toNat + 2 < 2 ^ 32) (r : Word) :
    ∃ t, (s.flagsNZ r).advance = .next t ∧ FallsThrough s t [] ∧ t.cpsr = s.cpsr.after r s.cpsr.c s.cpsr.v := by
  rw [← Psr.withNZ_eq]
  exact State.next_of_setCpsr hp (s.cpsr.withNZ r)

/-! ### Products -/

theorem mulOp_toNat (a b : Word) : (mulOp a b).toNat = a.toNat * b.toNat % 2 ^ 32 :=
  BitVec.toNat_ofNat ..

theorem Psr.withMul_eq (p : Psr) (r : Word) (draw : Bool) : p.withMul r draw = p.after r draw p.v := by
  rw [Psr.withMul, Psr.withNZ_eq]
  rfl

/-- The count of draws has no part in the end of an instruction. -/
theorem State.advance_countDraw {u t : State} (h : u.advance = .next t) :
    u.countDraw.advance = .next t.countDraw := by
  obtain ⟨hp, rfl⟩ := State.advance_cases h
  exact State.advance_next (s := u.countDraw) hp

theorem FallsThrough.countDraw {s t : State} {l : List PReg} (h : FallsThrough s t l) :
    FallsThrough s t.countDraw l :=
  ⟨h.pc, { h.frame with }⟩

/-- A product and its flags written and a free value drawn, then on to the next halfword (rule R154). -/
theorem State.next_of_mul {s : State} (hp : s.pc.toNat + 2 < 2 ^ 32) (rd : LoReg) (r : Word) (draw : Bool) :
    ∃ t, (((s.setLo rd r).setCpsr (s.cpsr.withMul r draw)).countDraw).advance = .next t ∧
      FallsThrough s t [loPReg rd] ∧ t.lo rd = r ∧ t.cpsr = s.cpsr.after r draw s.cpsr.v := by
  rw [← Psr.withMul_eq]
  obtain ⟨t, ht, hfall, hlo, hcpsr⟩ := State.next_of_setLo_setCpsr hp rd r (s.cpsr.withMul r draw)
  exact ⟨t.countDraw, State.advance_countDraw ht, hfall.countDraw, hlo, hcpsr⟩

/-! ### The amount of a shift by register -/

theorem shiftAmount_eq (v : Word) : shiftAmount v = v.toNat % 256 :=
  BitVec.toNat_setWidth 8 v

/-! ### The free values drawn -/

/-- Among the writes of an instruction, only those of MUL draw a free value. -/
theorem Writes.draws {s u : State} {k : Kind} (hw : Writes s k u) :
    u.draws = if k = .multiply then s.draws + 1 else s.draws := by
  cases hw with
  | pop | ldmia => simp
  | _ => rfl

theorem State.exchange_draws {s t : State} {v : Word} (h : s.exchange v = .next t) : t.draws = s.draws := by
  rcases State.exchange_cases h with ⟨-, rfl⟩ | ⟨-, rfl⟩ <;> rfl

/-- MUL goes on to the next halfword; no other way to complete draws a free value. -/
theorem Completes.draws {s t : State} {i : Instr} (h : Completes s i t) :
    t.draws = if kindOf i = .multiply then s.draws + 1 else s.draws := by
  cases h with
  | goesOn _ hw => exact hw.draws
  | branchIf k hi | branch k hi | swi k hi => rw [hi]; rfl
  | writesR15 v hi => rw [hi.kind]; rfl
  | popPc rlist l v a hi => subst hi; exact (Writes.pop l v).draws
  | blLow off11 v a hi => subst hi; exact (Writes.link v).draws
  | exchange v hi hx => rw [hi]; exact State.exchange_draws hx

end Sys2Proof.Machine
end

section
/-! The statements of the ALU family on logical results, shifts by register, products and draws. -/

namespace Sys2Proof.Proofs

open Sys2Proof.Machine

/-- Settles O14: each result by the library's rule for the bits of its operation. -/
theorem logicalResults : Obligations.LogicalResults := by
  intro s rd rs
  refine ⟨decode_encode (.andReg rd rs), decode_encode (.eorReg rd rs), decode_encode (.tstReg rd rs),
    decode_encode (.orrReg rd rs), decode_encode (.bicReg rd rs), decode_encode (.mvnReg rd rs),
    fun hp => ⟨List.forall_iff_forall_mem.1 ⟨?_, ?_, ?_, ?_, ?_⟩, ?_⟩⟩
  · exact State.next_of_setLo_bits hp rd fun _ _ => BitVec.getLsbD_and
  · exact State.next_of_setLo_bits hp rd fun _ _ => BitVec.getLsbD_xor
  · exact State.next_of_setLo_bits hp rd fun _ _ => BitVec.getLsbD_or
  · exact State.next_of_setLo_bits hp rd fun _ hk => by simp [hk]
  · exact State.next_of_setLo_bits hp rd fun _ hk => by simp [hk]
  · obtain ⟨t, ht, hfall, hcpsr⟩ := State.next_of_flagsNZ hp (s.lo rd &&& s.lo rs)
    exact ⟨t, _, ht, hfall, fun _ _ => BitVec.getLsbD_and, hcpsr⟩

/-- Settles O15: each shift by its result and its carry at the amount the low byte of Rs gives. -/
theorem shiftRegisterResults : Obligations.ShiftRegisterResults := by
  intro s rd rs v n
  have hn : shiftAmount (s.lo rs) = n := shiftAmount_eq (s.lo rs)
  rw [← hn]
  refine ⟨decode_encode (.lslReg rd rs), decode_encode (.lsrReg rd rs), decode_encode (.asrReg rd rs),
    decode_encode (.rorReg rd rs), fun hp => ⟨?_, ?_, ?_, ?_⟩⟩
  · obtain ⟨t, ht, hfall, hlo, hcpsr⟩ :=
      State.next_of_setLo_flagsShift hp rd (shiftLeft v (shiftAmount (s.lo rs)) s.cpsr.c)
    exact ⟨t, ht, hfall, hlo ▸ shiftLeft_toNat .., by rw [hcpsr, shiftLeft_carry]⟩
  · obtain ⟨t, ht, hfall, hlo, hcpsr⟩ :=
      State.next_of_setLo_flagsShift hp rd (shiftRight v (shiftAmount (s.lo rs)) s.cpsr.c)
    exact ⟨t, ht, hfall, hlo ▸ shiftRight_toNat .., by rw [hcpsr, shiftRight_carry]⟩
  · obtain ⟨t, ht, hfall, hlo, hcpsr⟩ :=
      State.next_of_setLo_flagsShift hp rd (shiftArith v (shiftAmount (s.lo rs)) s.cpsr.c)
    exact ⟨t, ht, hfall, hlo ▸ shiftArith_toInt .., by rw [hcpsr, shiftArith_carry]⟩
  · obtain ⟨t, ht, hfall, hlo, hcpsr⟩ :=
      State.next_of_setLo_flagsShift hp rd (rotateRight v (shiftAmount (s.lo rs)) s.cpsr.c)
    exact ⟨t, ht, hfall, hlo ▸ fun _ hk => rotateRight_bit v _ _ hk, by rw [hcpsr, hlo, rotateRight_carry]⟩

/-- Settles O17: the carry is the free value drawn. -/
theorem multiplyResult : Obligations.MultiplyResult := by
  intro s rd rs
  refine ⟨decode_encode (.mulReg rd rs), fun hp => ?_⟩
  obtain ⟨t, ht, hfall, hlo, hcpsr⟩ :=
    State.next_of_mul hp rd (mulOp (s.lo rs) (s.lo rd)) (Config.mulCarryDraw s.draws)
  exact ⟨t, _, ht, hfall, hlo ▸ mulOp_toNat .., by rw [hlo, hcpsr]⟩

/-- Settles O60: each way to complete by what it writes. -/
theorem drawsOnlyByMultiply : Obligations.DrawsOnlyByMultiply :=
  fun _ _ _ h => (exec_completes h).draws

end Sys2Proof.Proofs
end

section
/-! What format 5 leaves: sums with R15 as an operand, and the two ways BX goes (rules R171, R172, R175, R300, R336). -/

namespace Sys2Proof.Machine

/-! ### R15 as an operand of ADD -/

/-- The sum with R15 wraps once, whether or not the address plus 4 wraps first (rule R172; log entry 28). -/
theorem State.hi_r15_add (s : State) (v : Word) : s.hi .r15 + v = BitVec.ofNat 32 (s.pc.toNat + 4 + v.toNat) := by
  rw [BitVec.ofNat_add, ← pcRead_eq, BitVec.ofNat_toNat, BitVec.setWidth_eq]
  rfl

/-! ### BX -/

/-- Bits 2:0 of the word that are not zero stop BX before anything else is looked at (log entry 16). -/
theorem execBxLo_of_ne_zero (rs : LoReg) {sbz : BitVec 3} (h : sbz ≠ 0) (s : State) :
    execBxLo rs sbz s = .fault (.unpredictable .bxBitsNonzero s.pc) :=
  if_pos h

theorem execBxHi_of_ne_zero (hs : HiReg) {sbz : BitVec 3} (h : sbz ≠ 0) (s : State) :
    execBxHi hs sbz s = .fault (.unpredictable .bxBitsNonzero s.pc) :=
  if_pos h

theorem execBxLo_zero (rs : LoReg) (s : State) : execBxLo rs 0 s = s.exchange (s.lo rs) :=
  rfl

theorem execBxHi_zero_of_ne {hs : HiReg} (h : hs ≠ .r15) (s : State) : execBxHi hs 0 s = s.exchange (s.hi hs) := by
  rw [execBxHi, if_neg (by decide), if_neg fun hpc => h hpc.1]

/-- BX PC exchanges to the address plus 4 at a word-aligned address (rule R336). -/
theorem execBxHi_r15_aligned {s : State} (h : s.pc.toNat % 4 = 0) : execBxHi .r15 0 s = s.exchange (s.pc + 4) := by
  have hbit : s.pc.getLsbD 1 = false := by rw [bit1_eq, decide_eq_false_iff_not]; omega
  rw [execBxHi, if_neg (by decide), if_neg fun hpc => Bool.noConfusion (hbit.symm.trans hpc.2), State.hi_r15]

theorem execBxHi_r15_unaligned {s : State} (h : s.pc.toNat % 4 = 2) :
    execBxHi .r15 0 s = .fault (.unpredictable .bxPcUnaligned s.pc) := by
  have hbit : s.pc.getLsbD 1 = true := by rw [bit1_eq, decide_eq_true_eq]; omega
  rw [execBxHi, if_neg (by decide), if_pos ⟨rfl, hbit⟩]

/-- BX to an odd value changes the pc and T only (rule R175). -/
theorem State.next_of_exchange_thumb {s : State} {v : Word} (h : v.toNat % 2 = 1) :
    ∃ t, s.exchange v = .next t ∧ t.pc = dropBit0 v ∧ t.cpsr = { s.cpsr with t := true } ∧ Frame s t [] noBytes :=
  ⟨_, State.exchange_thumb h, rfl, rfl, fun _ _ => rfl, fun _ _ => rfl, rfl, rfl, rfl, rfl, rfl⟩

/-- BX to a multiple of 4 changes the pc, T and the record of the outcome, with which the next step ends the run (rules
R175, R300; log entries 12, 13, 32). -/
theorem State.next_of_exchange_arm {s : State} {v : Word} (h : v.toNat % 4 = 0) :
    ∃ t, s.exchange v = .next t ∧ t.pc = v ∧ t.cpsr = { s.cpsr with t := false } ∧
      Frame { s with lastExit := some (.enterArmState v) } t [] noBytes ∧
      step t = .refused (.armState v (some (.enterArmState v))) :=
  ⟨_, State.exchange_arm h, rfl, rfl, ⟨fun _ _ => rfl, fun _ _ => rfl, rfl, rfl, rfl, rfl, rfl⟩, step_arm rfl⟩

end Sys2Proof.Machine
end

section
/-! The statements of format 5 on ADD, MOV and BX. -/

namespace Sys2Proof.Proofs

open Sys2Proof.Machine

/-- Settles O19: the sum is written as any result is; R15 as destination branches to the sum with its own value. -/
theorem hiAddResults : Obligations.HiAddResults := by
  intro s rd rs hd hs x
  refine ⟨decode_encode (.addLoHi rd hs), decode_encode (.addHiLo hd rs), decode_encode (.addHiHi hd hs),
    exec_undefined rfl s, pcRead_eq s, fun hp => ⟨?_, fun p hreg => ⟨?_, ?_⟩⟩, ?_, ?_⟩
  · rw [← add_ofNat]
    exact State.next_of_setReg hp (loPReg rd) (s.lo rd + s.hi hs)
  · rw [← add_ofNat]
    exact State.finishHi_next hp hreg (s.hi hd + s.lo rs)
  · rw [← add_ofNat]
    exact State.finishHi_next hp hreg (s.hi hd + s.hi hs)
  · rw [← State.hi_r15_add]
    exact State.finishHi_r15 s (s.hi .r15 + s.lo rs)
  · rw [← State.hi_r15_add]
    exact State.finishHi_r15 s (s.hi .r15 + s.hi hs)

/-- Settles O21: the operand is written as any result is; R15 as destination branches to it. -/
theorem hiMoveResults : Obligations.HiMoveResults := by
  intro s rd rs hd hs x
  refine ⟨decode_encode (.movLoHi rd hs), decode_encode (.movHiLo hd rs), decode_encode (.movHiHi hd hs),
    exec_undefined rfl s, pcRead_eq s, fun hp => ⟨?_, fun p hreg => ⟨?_, ?_⟩⟩, ?_, ?_⟩
  · exact State.next_of_setReg hp (loPReg rd) (s.hi hs)
  · exact State.finishHi_next hp hreg (s.lo rs)
  · exact State.finishHi_next hp hreg (s.hi hs)
  · exact State.finishHi_r15 s (s.lo rs)
  · exact State.finishHi_r15 s (s.hi hs)

/-- Settles O22: past its checks BX is the exchange to the value it reads, and that value modulo 4 says which way it
goes. -/
theorem branchExchangeResults : Obligations.BranchExchangeResults := by
  intro s rs hs sbz
  refine ⟨decode_encode (.bxLo rs sbz), decode_encode (.bxHi hs sbz),
    fun hsbz => ⟨execBxLo_of_ne_zero rs hsbz s, execBxHi_of_ne_zero hs hsbz s⟩, fun i v hi => ?_,
    fun haligned => ?_, execBxHi_r15_unaligned⟩
  · have hexec : exec i s = s.exchange v := by
      obtain ⟨rfl, rfl⟩ | ⟨rfl, hne, rfl⟩ := hi
      · exact execBxLo_zero rs s
      · exact execBxHi_zero_of_ne hne s
    rw [hexec]
    exact ⟨State.next_of_exchange_thumb, State.next_of_exchange_arm, State.exchange_stops⟩
  · have hexec : exec (.bxHi .r15 0) s = s.exchange (s.pc + 4) := execBxHi_r15_aligned haligned
    have htarget : (s.pc + 4).toNat % 4 = 0 := slot_aligned haligned 1
    rw [hexec]
    exact State.next_of_exchange_arm htarget

end Sys2Proof.Proofs
end

section
/-! One register loaded or stored: how each access ends, and which access each form with a register offset makes (rules
R52, R53, R55, R56, R190 to R201). -/

namespace Sys2Proof.Machine

/-! ### How a load or a store ends -/

/-- A load whose access completes writes the extended value and goes on. -/
theorem State.next_of_load {s : State} {a : Word} {w : Width} (h : s.Readable a w) (hp : s.pc.toNat + 2 < 2 ^ 32)
    (rd : LoReg) (ext : Word → Word) :
    ∃ t, s.load rd a w ext = .next t ∧ WritesOnly s t (loPReg rd) (ext (s.peek a w)) := by
  rw [State.load_ok h]
  exact State.next_of_setReg hp (loPReg rd) (ext (s.peek a w))

/-- A store whose access completes leaves the value's low bytes at the address and goes on. -/
theorem State.next_of_store {s : State} {a : Word} {w : Width} (hm : s.mem.wf = true) (h : s.Writable a w)
    (hp : s.pc.toNat + 2 < 2 ^ 32) (v : Word) :
    ∃ t, s.store a w v = .next t ∧ StoresOnly s t a w v :=
  ⟨_, State.store_next h hp, State.storesOnly_poke hm v h.aligned⟩

/-! ### The value a narrow load extends -/

theorem State.sextByte_peek (s : State) (a : Word) :
    sextByte (s.peek a .byte) = BitVec.ofInt 32 (BitVec.ofNat 8 (s.value a .byte)).toInt := by
  rw [sextByte_eq, State.peek_toNat]

theorem State.sextHalf_peek (s : State) (a : Word) :
    sextHalf (s.peek a .half) = BitVec.ofInt 32 (BitVec.ofNat 16 (s.value a .half)).toInt := by
  rw [sextHalf_eq, State.peek_toNat]

/-! ### Formats 7 and 8 -/

/-- The address of a register-offset access as a number (rules R192, R197). -/
theorem State.regAddr_eq (s : State) (rb ro : LoReg) :
    s.regAddr rb ro = BitVec.ofNat 32 ((s.lo rb).toNat + (s.lo ro).toNat) :=
  add_ofNat (s.lo rb) (s.lo ro)

/-- Each store with a register offset stores Rd in its own width (rules R193, R194, R198). -/
theorem exec_storeReg {rd rb ro : LoReg} {i : Instr} {w : Width}
    (h : (i, w) ∈ [(Instr.strReg rd rb ro, Width.word), (.strbReg rd rb ro, .byte), (.strhReg rd rb ro, .half)])
    (s : State) : exec i s = s.store (s.regAddr rb ro) w (s.lo rd) := by
  simp only [List.mem_cons, List.not_mem_nil, or_false, Prod.mk.injEq] at h
  obtain ⟨rfl, rfl⟩ | ⟨rfl, rfl⟩ | ⟨rfl, rfl⟩ := h <;> rfl

/-- Each load with a register offset reads in its own width and extends in its own way (rules R195, R196, R199 to
R201). -/
theorem exec_loadReg {s : State} {rd rb ro : LoReg} {a : Word} (ha : s.regAddr rb ro = a) {i : Instr} {w : Width}
    {v : Word}
    (h : (i, w, v) ∈ [(Instr.ldrReg rd rb ro, Width.word, BitVec.ofNat 32 (s.value a .word)),
        (.ldrbReg rd rb ro, .byte, BitVec.ofNat 32 (s.value a .byte)),
        (.ldrhReg rd rb ro, .half, BitVec.ofNat 32 (s.value a .half)),
        (.ldsbReg rd rb ro, .byte, BitVec.ofInt 32 (BitVec.ofNat 8 (s.value a .byte)).toInt),
        (.ldshReg rd rb ro, .half, BitVec.ofInt 32 (BitVec.ofNat 16 (s.value a .half)).toInt)]) :
    ∃ ext, exec i s = s.load rd a w ext ∧ ext (s.peek a w) = v := by
  subst ha
  simp only [List.mem_cons, List.not_mem_nil, or_false, Prod.mk.injEq] at h
  obtain ⟨rfl, rfl, rfl⟩ | ⟨rfl, rfl, rfl⟩ | ⟨rfl, rfl, rfl⟩ | ⟨rfl, rfl, rfl⟩ | ⟨rfl, rfl, rfl⟩ := h
  · exact ⟨id, rfl, State.peek_eq s _ .word⟩
  · exact ⟨id, rfl, State.peek_eq s _ .byte⟩
  · exact ⟨id, rfl, State.peek_eq s _ .half⟩
  · exact ⟨sextByte, rfl, State.sextByte_peek s _⟩
  · exact ⟨sextHalf, rfl, State.sextHalf_peek s _⟩

end Sys2Proof.Machine
end

section
/-! The statements of formats 6, 7 and 8. -/

namespace Sys2Proof.Proofs

open Sys2Proof.Machine

/-- Settles O23: the address is always aligned, so the platform alone says whether the load completes. -/
theorem loadPcResult : Obligations.LoadPcResult := by
  intro s rd word8 a
  have haddr : s.pcAddr word8 = a := pcAddr_eq s word8
  have haligned : a.toNat % 4 = 0 := haddr ▸ pcAddr_aligned s word8
  have hexec : exec (.ldrPc rd word8) s = s.load rd a .word id := by rw [← haddr]; rfl
  rw [hexec, ← State.peek_eq]
  exact ⟨decode_encode (.ldrPc rd word8), haligned, (State.load_stops s rd a .word id).refused haligned,
    fun hadm hp => State.next_of_load ⟨haligned, hadm⟩ hp rd id⟩

/-- Settles O24: the three forms are one store, each in its own width. -/
theorem storeRegisterResults : Obligations.StoreRegisterResults := by
  intro s rd rb ro i w a
  refine ⟨decode_encode (.strReg rd rb ro), decode_encode (.strbReg rd rb ro), decode_encode (.strhReg rd rb ro),
    State.regAddr_eq s rb ro, fun hi => ?_⟩
  rw [exec_storeReg hi]
  exact ⟨State.store_stops s a w (s.lo rd), fun hm hw hp => State.next_of_store hm hw hp (s.lo rd)⟩

/-- Settles O25: the five forms are one load, each in its own width and with its own extension. -/
theorem loadRegisterResults : Obligations.LoadRegisterResults := by
  intro s rd rb ro i w v a
  refine ⟨decode_encode (.ldrReg rd rb ro), decode_encode (.ldrbReg rd rb ro), decode_encode (.ldrhReg rd rb ro),
    decode_encode (.ldsbReg rd rb ro), decode_encode (.ldshReg rd rb ro), fun hi => ?_⟩
  obtain ⟨ext, hexec, rfl⟩ := exec_loadReg (State.regAddr_eq s rb ro) hi
  rw [hexec]
  exact ⟨State.load_stops s rd a w ext, fun hr hp => State.next_of_load hr hp rd ext⟩

end Sys2Proof.Proofs
end

section
/-! The addresses of formats 9, 10 and 11, and which access each of their forms makes (rules R210 to R220; log entries 14,
28). -/

namespace Sys2Proof.Machine

/-! ### Addresses -/

/-- An immediate offset counted in words (rule R210). -/
theorem State.immAddr_wordOffset (s : State) (rb : LoReg) (off5 : BitVec 5) :
    s.immAddr rb (wordOffset off5) = BitVec.ofNat 32 ((s.lo rb).toNat + 4 * off5.toNat) := by
  rw [State.immAddr, add_ofNat, wordOffset_toNat off5 (by decide)]

theorem State.immAddr_byteOffset (s : State) (rb : LoReg) (off5 : BitVec 5) :
    s.immAddr rb (byteOffset off5) = BitVec.ofNat 32 ((s.lo rb).toNat + off5.toNat) := by
  rw [State.immAddr, add_ofNat, byteOffset_toNat off5 (by decide)]

theorem State.immAddr_halfOffset (s : State) (rb : LoReg) (off5 : BitVec 5) :
    s.immAddr rb (halfOffset off5) = BitVec.ofNat 32 ((s.lo rb).toNat + 2 * off5.toNat) := by
  rw [State.immAddr, add_ofNat, halfOffset_toNat off5 (by decide)]

/-- The address of an SP-relative access; SP need not be aligned. -/
theorem State.spAddr_eq (s : State) (word8 : BitVec 8) :
    s.spAddr word8 = BitVec.ofNat 32 (s.sp.toNat + 4 * word8.toNat) := by
  rw [State.spAddr, add_ofNat, wordOffset_toNat word8 le_rfl]

/-! ### The access of each form -/

/-- Each store with an immediate offset stores Rd in its own width (rules R211, R213, R216, R219). -/
theorem exec_storeImm {s : State} {rd rb : LoReg} {off5 : BitVec 5} {word8 : BitVec 8} {i : Instr} {w : Width}
    {a : Word}
    (h : (i, w, a) ∈ [(Instr.strImm rd rb off5, Width.word, s.immAddr rb (wordOffset off5)),
        (.strbImm rd rb off5, .byte, s.immAddr rb (byteOffset off5)),
        (.strhImm rd rb off5, .half, s.immAddr rb (halfOffset off5)),
        (.strSp rd word8, .word, s.spAddr word8)]) :
    exec i s = s.store a w (s.lo rd) := by
  simp only [List.mem_cons, List.not_mem_nil, or_false, Prod.mk.injEq] at h
  obtain ⟨rfl, rfl, rfl⟩ | ⟨rfl, rfl, rfl⟩ | ⟨rfl, rfl, rfl⟩ | ⟨rfl, rfl, rfl⟩ := h <;> rfl

/-- Each load with an immediate offset reads in its own width, and none of them sign-extends (rules R212, R214, R217,
R220). -/
theorem exec_loadImm {s : State} {rd rb : LoReg} {off5 : BitVec 5} {word8 : BitVec 8} {i : Instr} {w : Width}
    {a : Word}
    (h : (i, w, a) ∈ [(Instr.ldrImm rd rb off5, Width.word, s.immAddr rb (wordOffset off5)),
        (.ldrbImm rd rb off5, .byte, s.immAddr rb (byteOffset off5)),
        (.ldrhImm rd rb off5, .half, s.immAddr rb (halfOffset off5)),
        (.ldrSp rd word8, .word, s.spAddr word8)]) :
    exec i s = s.load rd a w id := by
  simp only [List.mem_cons, List.not_mem_nil, or_false, Prod.mk.injEq] at h
  obtain ⟨rfl, rfl, rfl⟩ | ⟨rfl, rfl, rfl⟩ | ⟨rfl, rfl, rfl⟩ | ⟨rfl, rfl, rfl⟩ := h <;> rfl

end Sys2Proof.Machine
end

section
/-! The statements of formats 9, 10 and 11. -/

namespace Sys2Proof.Proofs

open Sys2Proof.Machine

/-- Settles O26: the four forms are one store, each in its own width and at its own address. -/
theorem storeImmediateResults : Obligations.StoreImmediateResults := by
  intro s rd rb off5 word8 i w a
  refine ⟨decode_encode (.strImm rd rb off5), decode_encode (.strbImm rd rb off5),
    decode_encode (.strhImm rd rb off5), decode_encode (.strSp rd word8), State.immAddr_wordOffset s rb off5,
    State.immAddr_byteOffset s rb off5, State.immAddr_halfOffset s rb off5, State.spAddr_eq s word8, fun hi => ?_⟩
  rw [exec_storeImm hi]
  exact ⟨State.store_stops s a w (s.lo rd), fun hm hw hp => State.next_of_store hm hw hp (s.lo rd)⟩

/-- Settles O27: the four forms are one load that keeps the value it reads, each in its own width and at its own
address. -/
theorem loadImmediateResults : Obligations.LoadImmediateResults := by
  intro s rd rb off5 word8 i w a
  refine ⟨decode_encode (.ldrImm rd rb off5), decode_encode (.ldrbImm rd rb off5),
    decode_encode (.ldrhImm rd rb off5), decode_encode (.ldrSp rd word8), fun hi => ?_⟩
  rw [← State.immAddr_wordOffset, ← State.immAddr_byteOffset, ← State.immAddr_halfOffset, ← State.spAddr_eq] at hi
  rw [exec_loadImm hi, ← State.peek_eq]
  exact ⟨State.load_stops s rd a w id, fun hr hp => State.next_of_load hr hp rd id⟩

end Sys2Proof.Proofs
end

section
/-! The sums and differences of formats 12 and 13 as numbers modulo 2^32 (rules R230, R231, R233, R234; log entry 28). -/

namespace Sys2Proof.Machine

/-- A difference of words is the difference of their numbers modulo 2^32 (rule R8). -/
theorem sub_eq_ofInt (a b : Word) : a - b = BitVec.ofInt 32 (a.toNat - b.toNat) := by
  apply BitVec.eq_of_toNat_eq
  rw [BitVec.toNat_sub, BitVec.toNat_ofInt]
  omega

theorem add_wordOffset {n : Nat} (a : Word) (k : BitVec n) (h : n ≤ 8) :
    a + wordOffset k = BitVec.ofNat 32 (a.toNat + 4 * k.toNat) := by
  rw [add_ofNat, wordOffset_toNat k h]

theorem sub_wordOffset {n : Nat} (a : Word) (k : BitVec n) (h : n ≤ 8) :
    a - wordOffset k = BitVec.ofInt 32 ((a.toNat : Int) - 4 * k.toNat) := by
  rw [sub_eq_ofInt, wordOffset_toNat k h]
  rfl

end Sys2Proof.Machine
end

section
/-! The statement of formats 12 and 13. -/

namespace Sys2Proof.Proofs

open Sys2Proof.Machine

/-- Settles O32: each form writes one register and goes on, so what is left is the number it writes. -/
theorem addressResults : Obligations.AddressResults := by
  intro s rd word8 sword7
  refine ⟨decode_encode (.addPc rd word8), decode_encode (.addSpRd rd word8), decode_encode (.addSpPos sword7),
    decode_encode (.addSpNeg sword7), fun hp => ⟨?_, ?_, ?_, ?_⟩⟩
  · rw [← pcReadWord_add_wordOffset]
    exact State.next_of_setReg hp (loPReg rd) (s.pcReadWord + wordOffset word8)
  · rw [← add_wordOffset s.sp word8 le_rfl]
    exact State.next_of_setReg hp (loPReg rd) (s.sp + wordOffset word8)
  · rw [← add_wordOffset s.sp sword7 (by decide)]
    exact State.next_of_setReg hp (spPReg s.cpsr.mode) (s.sp + wordOffset sword7)
  · rw [← sub_wordOffset s.sp sword7 (by decide)]
    exact State.next_of_setReg hp (spPReg s.cpsr.mode) (s.sp - wordOffset sword7)

end Sys2Proof.Proofs
end

section
/-! The registers of a list: the words a transfer of them stores or loads, and the base register of STMIA among them
(rules R240, R241, R248; log entries 16, 23, 28). -/

namespace Sys2Proof.Machine

/-! ### Addresses -/

theorem add_wordBytes (a : Word) (n : Nat) : a + wordBytes n = slot a n := by
  rw [wordBytes_eq, slot]

/-- The lowest word of a push as a number modulo 2^32 (rules R8, R241). -/
theorem State.pushStart_eq (s : State) (n : Nat) : s.pushStart n = BitVec.ofInt 32 ((s.sp.toNat : Int) - 4 * n) := by
  rw [State.pushStart, wordBytes_eq, sub_eq_ofInt, BitVec.toNat_ofNat]
  apply BitVec.eq_of_toNat_eq
  rw [BitVec.toNat_ofInt, BitVec.toNat_ofInt]
  omega

/-- Above the words of a push is where SP was. -/
theorem State.slot_pushStart (s : State) (n : Nat) : slot (s.pushStart n) n = s.sp := by
  rw [← add_wordBytes, State.pushStart, BitVec.sub_add_cancel]

/-! ### The words stored -/

@[simp] theorem State.listValues_length (s : State) (rlist : BitVec 8) :
    (s.listValues rlist).length = (listRegs rlist).length :=
  List.length_map _

theorem State.listValues_getElem? (s : State) {rlist : BitVec 8} {k : Nat} {r : LoReg}
    (h : (listRegs rlist)[k]? = some r) : (s.listValues rlist)[k]? = some (s.lo r) := by
  rw [State.listValues, List.getElem?_map, h, Option.map_some]

/-! ### The words loaded -/

theorem State.lo_setSp (s : State) (v : Word) (r : LoReg) : (s.setSp v).lo r = s.lo r :=
  State.lo_setReg_hi (h := .r13) rfl v r

/-- The registers of a list, each with the word that a load of the list from an address gives it. -/
def State.listWords (s : State) (a : Word) (rlist : BitVec 8) : List (LoReg × Word) :=
  (listRegs rlist).zip ((List.range (listRegs rlist).length).map fun k => s.peek (slot a k) .word)

theorem State.listWords_fst (s : State) (a : Word) (rlist : BitVec 8) :
    (s.listWords a rlist).map Prod.fst = listRegs rlist :=
  listRegs_zip_fst (by simp)

/-- Written with their words, the registers of a list hold them in ascending order (rule R240). -/
theorem State.lo_setLos_listWords (s t : State) (a : Word) {rlist : BitVec 8} {k : Nat} {r : LoReg}
    (h : (listRegs rlist)[k]? = some r) :
    ((t.setLos (s.listWords a rlist)).lo r).toNat = s.value (slot a k) .word := by
  have hlo : (t.setLos (s.listWords a rlist)).lo r = s.peek (slot a k) .word :=
    State.setLos_lo t _ (by rw [State.listWords_fst]; exact listRegs_nodup rlist) (listRegs_zip_mem h)
  rw [hlo, State.peek_toNat]

/-- A register that several writes do not name is kept. -/
theorem State.lo_setLos_of_not_mem (s : State) {l : List (LoReg × Word)} {r : LoReg} (h : r ∉ l.map Prod.fst) :
    (s.setLos l).lo r = s.lo r :=
  State.setLos_regs_get s l (loPReg r) fun e he hr => h ((loPReg_inj r e.1).1 hr ▸ List.mem_map_of_mem he)

/-! ### The base register of STMIA -/

/-- The mask of the registers below one register. -/
theorem belowMask_getLsbD (rb r : LoReg) :
    ((1#8 <<< rb.toBits.toNat) - 1#8).getLsbD r.toBits.toNat = decide (r.toBits.toNat < rb.toBits.toNat) := by
  cases rb <;> cases r <;> rfl

/-- A list is empty when no register is in it. -/
theorem eq_zero_iff_forall_inList {x : BitVec 8} : x = 0#8 ↔ ∀ r, inList x r = false := by
  constructor
  · rintro rfl r
    exact BitVec.getLsbD_zero
  · intro h
    apply BitVec.eq_of_getLsbD_eq
    intro i hi
    have hbit := h (LoReg.ofBits (BitVec.ofNat 3 i))
    rw [inList, LoReg.toBits_ofBits, BitVec.toNat_ofNat, Nat.mod_eq_of_lt hi] at hbit
    exact hbit.trans BitVec.getLsbD_zero.symm

/-- The base is listed with a lower register exactly when the list has a bit below the base's (rule R248). -/
theorem baseNotLowest_iff {rb : LoReg} {rlist : BitVec 8} :
    baseNotLowest rb rlist = true ↔
      rb ∈ listRegs rlist ∧ ∃ r ∈ listRegs rlist, r.toBits.toNat < rb.toBits.toNat := by
  have hbelow : ∀ r, inList (rlist &&& ((1#8 <<< rb.toBits.toNat) - 1#8)) r = true ↔
      r ∈ listRegs rlist ∧ r.toBits.toNat < rb.toBits.toNat := by
    intro r
    rw [inList, BitVec.getLsbD_and, belowMask_getLsbD, Bool.and_eq_true, decide_eq_true_eq, mem_listRegs, inList]
  rw [baseNotLowest, Bool.and_eq_true, bne_iff_ne, ← mem_listRegs, Ne, eq_zero_iff_forall_inList]
  simp only [not_forall, Bool.not_eq_false, hbelow]

end Sys2Proof.Machine
end

section
/-! What a transfer of several registers leaves unchanged, and how each of PUSH, POP, STMIA and LDMIA ends (rules R56,
R240 to R248). -/

namespace Sys2Proof.Machine

/-! ### What stays, write by write -/

section
variable {s t : State} {ps : List PReg} {stored : Nat → Prop}

theorem Frame.refl (s : State) : Frame s s [] noBytes :=
  ⟨fun _ _ => rfl, fun _ _ => rfl, rfl, rfl, rfl, rfl, rfl⟩

theorem Frame.of_setMem {m : Memory} (h : ∀ x, ¬ stored x → m.read x = s.mem.read x) :
    Frame s (s.setMem m) [] stored :=
  ⟨fun _ _ => rfl, h, rfl, rfl, rfl, rfl, rfl⟩

theorem Frame.setPc (h : Frame s t ps stored) (a : Word) : Frame s (t.setPc a) ps stored :=
  ⟨h.regs, h.mem, h.spsr, h.endian, h.memAdmit, h.codeRange, h.lastExit⟩

theorem Frame.setReg (h : Frame s t ps stored) (p : PReg) (v : Word) : Frame s (t.setReg p v) (p :: ps) stored where
  regs q hq := by
    obtain ⟨hqp, hqs⟩ := List.ne_and_not_mem_of_not_mem_cons hq
    exact (RegFile.get_set_other _ v hqp).trans (h.regs q hqs)
  mem := h.mem
  spsr := h.spsr
  endian := h.endian
  memAdmit := h.memAdmit
  codeRange := h.codeRange
  lastExit := h.lastExit

theorem Frame.setSp (h : Frame s t ps stored) (hc : t.cpsr = s.cpsr) (v : Word) :
    Frame s (t.setSp v) (spPReg s.cpsr.mode :: ps) stored := by
  rw [← hc]
  exact h.setReg _ v

theorem Frame.setLos (h : Frame s t ps stored) (l : List (LoReg × Word)) :
    Frame s (t.setLos l) (ps ++ (l.map Prod.fst).map loPReg) stored where
  regs q hq := by
    obtain ⟨hps, hl⟩ := not_or.1 (mt List.mem_append.2 hq)
    rw [State.setLos_regs_get t l q fun e he hqe =>
      hl (hqe ▸ List.mem_map_of_mem (List.mem_map_of_mem he)), h.regs q hps]
  mem x hx := by rw [State.setLos_mem, h.mem x hx]
  spsr := by rw [State.setLos_spsr, h.spsr]
  endian := by rw [State.setLos_endian, h.endian]
  memAdmit := by rw [State.setLos_memAdmit, h.memAdmit]
  codeRange := by rw [State.setLos_codeRange, h.codeRange]
  lastExit := by rw [State.setLos_lastExit, h.lastExit]

/-- The registers of a list loaded, then SP written. -/
theorem State.frame_setLos_listWords_setSp (s : State) (a : Word) (rlist : BitVec 8) (v : Word) :
    Frame s ((s.setLos (s.listWords a rlist)).setSp v) (spPReg s.cpsr.mode :: (listRegs rlist).map loPReg)
      noBytes := by
  have h := ((Frame.refl s).setLos (s.listWords a rlist)).setSp (State.setLos_cpsr s _) v
  rwa [State.listWords_fst] at h

theorem Frame.readable (h : Frame s t ps stored) {a : Word} {w : Width} (ha : s.Readable a w) : t.Readable a w :=
  ⟨ha.aligned, by rw [State.admits, h.memAdmit]; exact ha.admitted⟩

/-- After two instructions the registers are as before when those that either writes are. -/
theorem Frame.regs_restored {u : State} {p : PReg} {rs : List LoReg} {stored' : Nat → Prop} (h : Frame s t [p] stored)
    (h' : Frame t u (p :: rs.map loPReg) stored') (hp : u.regs.get p = s.regs.get p)
    (hrs : ∀ r ∈ rs, u.lo r = s.lo r) : u.regs = s.regs := by
  refine RegFile.ext_get fun q => ?_
  by_cases hq : q ∈ p :: rs.map loPReg
  · obtain rfl | hq := List.mem_cons.1 hq
    · exact hp
    · obtain ⟨r, hr, rfl⟩ := List.mem_map.1 hq
      exact hrs r hr
  · have hqp : q ∉ [p] := fun hmem => hq (List.mem_cons.2 (.inl (List.mem_singleton.1 hmem)))
    exact (h'.regs q hq).trans (h.regs q hqp)

end

/-! ### The first access that stops -/

theorem State.memRead_stops {s : State} {a : Word} {w : Width} {r : Result}
    (hr : ∀ f, s.memRead a w = .error f → r = .fault f) : LoadStops s a w r where
  unaligned h := hr _ (State.memRead_unaligned h)
  refused h h2 := hr _ (State.memRead_refused h h2)

theorem LoadManyStops.of_loadWords {s : State} {a : Word} {n : Nat} {r : Result}
    (hr : ∀ f, s.loadWords a n = .error f → r = .fault f) : LoadManyStops s a n r :=
  fun _ hk hw => State.loadWords_stops hk hw hr

/-- One access more: it is the first to stop only when those before it complete. -/
theorem LoadManyStops.succ {s : State} {a : Word} {n : Nat} {r : Result} (h : LoadManyStops s a n r)
    (hlast : (∀ j, j < n → s.Readable (slot a j) .word) → LoadStops s (slot a n) .word r) :
    LoadManyStops s a (n + 1) r := by
  intro k hk hw
  obtain hlt | rfl := Nat.lt_succ_iff_lt_or_eq.1 hk
  · exact h k hlt hw
  · exact hlast hw

theorem StoreManyStops.of_storeWords {s : State} {a : Word} {vs : List Word} {r : Result}
    (hr : ∀ f, s.storeWords a vs = .error f → r = .fault f) : StoreManyStops s a vs.length r :=
  fun _ hk hw => State.storeWords_stops hk hw hr

/-! ### PUSH -/

theorem exec_push_of_ne_zero {rlist : BitVec 8} (h : rlist ≠ 0) (s : State) :
    exec (.push rlist) s = s.pushWords (s.listValues rlist) :=
  if_neg h

/-! ### POP -/

section
variable {s : State} {rlist : BitVec 8}

theorem execPop_of_error (hne : rlist ≠ 0) {f : Fault} (h : s.loadWords s.sp (listRegs rlist).length = .error f) :
    execPop rlist s = .fault f := by
  rw [execPop, if_neg hne, h]

theorem execPop_next (hne : rlist ≠ 0) (h : ∀ k, k < (listRegs rlist).length → s.Readable (slot s.sp k) .word)
    (hp : s.pc.toNat + 2 < 2 ^ 32) :
    execPop rlist s =
      .next (((s.setLos (s.listWords s.sp rlist)).setSp (slot s.sp (listRegs rlist).length)).setPc (s.pc + 2)) := by
  rw [execPop, if_neg hne, State.loadWords_ok h, add_wordBytes]
  refine (State.advance_next ?_).trans ?_
  · rwa [State.setSp_pc, State.setLos_pc]
  · rw [State.setSp_pc, State.setLos_pc, State.listWords]

theorem execPopPc_of_error {f : Fault} (h : s.loadWords s.sp (listRegs rlist).length = .error f) :
    execPopPc rlist s = .fault f := by
  rw [execPopPc, h]

theorem execPopPc_of_error_last (h : ∀ k, k < (listRegs rlist).length → s.Readable (slot s.sp k) .word) {f : Fault}
    (hlast : s.memRead (slot s.sp (listRegs rlist).length) .word = .error f) : execPopPc rlist s = .fault f := by
  rw [execPopPc, State.loadWords_ok h, add_wordBytes, hlast]

theorem execPopPc_next (h : ∀ k, k < (listRegs rlist).length + 1 → s.Readable (slot s.sp k) .word) :
    execPopPc rlist s =
      .next (((s.setLos (s.listWords s.sp rlist)).setSp (slot s.sp ((listRegs rlist).length + 1))).setPc
        (dropBit0 (s.peek (slot s.sp (listRegs rlist).length) .word))) := by
  rw [execPopPc, State.loadWords_ok fun k hk => h k (Nat.lt_succ_of_lt hk), add_wordBytes, add_wordBytes,
    State.memRead_ok (h _ (Nat.lt_succ_self _)), ← and_even, State.listWords]
  rfl

end

/-! ### STMIA and LDMIA -/

section
variable {s : State} {rb : LoReg} {rlist : BitVec 8}

theorem execStmia_of_error (hne : rlist ≠ 0) (hbase : ¬ baseNotLowest rb rlist = true) {f : Fault}
    (h : s.storeWords (s.lo rb) (s.listValues rlist) = .error f) : execStmia rb rlist s = .fault f := by
  rw [execStmia, if_neg hne, if_neg hbase, h]

theorem execStmia_of_baseNotLowest (h : baseNotLowest rb rlist = true) :
    execStmia rb rlist s = .fault (.unpredictable .stmBaseNotLowest s.pc) := by
  have hne : rlist ≠ 0 := by
    rintro rfl
    have hmem : inList 0#8 rb = true := mem_listRegs.1 (baseNotLowest_iff.1 h).1
    rw [eq_zero_iff_forall_inList.1 rfl] at hmem
    cases hmem
  rw [execStmia, if_neg hne, if_pos h]

theorem execStmia_next (hne : rlist ≠ 0) (hbase : ¬ baseNotLowest rb rlist = true) {m : Memory}
    (h : s.storeWords (s.lo rb) (s.listValues rlist) = .ok (s.setMem m)) (hp : s.pc.toNat + 2 < 2 ^ 32) :
    execStmia rb rlist s =
      .next (((s.setMem m).setLo rb (slot (s.lo rb) (listRegs rlist).length)).setPc (s.pc + 2)) := by
  rw [execStmia, if_neg hne, if_neg hbase, h, add_wordBytes]
  exact State.advance_next (s := (s.setMem m).setLo rb _) hp

theorem execLdmia_of_error (hne : rlist ≠ 0) {f : Fault}
    (h : s.loadWords (s.lo rb) (listRegs rlist).length = .error f) : execLdmia rb rlist s = .fault f := by
  rw [execLdmia, if_neg hne, h]

theorem execLdmia_next (hne : rlist ≠ 0)
    (h : ∀ k, k < (listRegs rlist).length → s.Readable (slot (s.lo rb) k) .word) (hp : s.pc.toNat + 2 < 2 ^ 32) :
    execLdmia rb rlist s =
      .next (((s.setLo rb (slot (s.lo rb) (listRegs rlist).length)).setLos
        (s.listWords (s.lo rb) rlist)).setPc (s.pc + 2)) := by
  rw [execLdmia, if_neg hne, State.loadWords_ok h, add_wordBytes]
  refine (State.advance_next ?_).trans ?_
  · rwa [State.setLos_pc]
  · rw [State.setLos_pc, State.listWords, State.setLo_pc]

end

end Sys2Proof.Machine
end

section
/-! The statements of formats 14 and 15. -/

namespace Sys2Proof.Proofs

open Sys2Proof.Machine

/-- Settles O34: both forms push a list of words, the registers' values with LR's after them or not. -/
theorem pushResults : Obligations.PushResults := by
  intro s rlist n
  have hlen : (s.listValues rlist).length = n := State.listValues_length s rlist
  have hlenLr : (s.listValues rlist ++ [s.lr]).length = n + 1 := by
    rw [List.length_append, hlen, List.length_singleton]
  have hn : n ≤ 8 := listRegs_length_le rlist
  have hnext := State.pushWords_next (s := s) (vs := s.listValues rlist)
  have hnextLr := State.pushWords_next (s := s) (vs := s.listValues rlist ++ [s.lr])
  rw [hlen] at hnext
  rw [hlenLr] at hnextLr
  refine ⟨decode_encode (.push rlist), decode_encode (.pushLr rlist), State.pushStart_eq s, fun h => if_pos h,
    fun hne => exec_push_of_ne_zero hne s ▸ hlen ▸ State.pushWords_stops, hlenLr ▸ State.pushWords_stops,
    fun hne hm hw hp => ?_, fun hm hw hp => ?_⟩
  · obtain ⟨t, ht, hsp, hcpsr, hpc, hframe, hwords⟩ := hnext hm (by omega) hw hp
    exact ⟨t, (exec_push_of_ne_zero hne s).trans ht, hsp, hcpsr, hpc, hframe,
      fun k r hr => hwords k _ (s.listValues_getElem? hr)⟩
  · obtain ⟨t, ht, hsp, hcpsr, hpc, hframe, hwords⟩ := hnextLr hm (by omega) hw hp
    refine ⟨t, ht, hsp, hcpsr, hpc, hframe, fun k r hr => hwords k _ ?_, hwords n _ ?_⟩
    · have hk : k < (s.listValues rlist).length := hlen ▸ (List.getElem?_eq_some_iff.1 hr).1
      rw [List.getElem?_append_left hk, s.listValues_getElem? hr]
    · exact hlen ▸ List.getElem?_concat_length

/-- Settles O35: the words at the old SP go to the registers of the list, then SP moves above them. -/
theorem popResults : Obligations.PopResults := by
  intro s rlist n
  refine ⟨decode_encode (.pop rlist), fun h => if_pos h,
    fun hne => .of_loadWords fun f => execPop_of_error hne, fun hne hw hp => ?_⟩
  refine ⟨_, execPop_next hne hw hp, State.setLos_cpsr s _, State.sp_setSp (s.setLos _) _,
    ⟨rfl, (State.frame_setLos_listWords_setSp s s.sp rlist _).setPc _⟩, fun k r hr => ?_⟩
  rw [State.lo_setPc, State.lo_setSp]
  exact State.lo_setLos_listWords s s s.sp hr

/-- Settles O36: the words at the old SP go to the registers of the list and the pc, then SP moves above them. -/
theorem popPcResults : Obligations.PopPcResults := by
  intro s rlist n
  have hlist : LoadManyStops s s.sp n (exec (.popPc rlist) s) := .of_loadWords fun f => execPopPc_of_error
  refine ⟨decode_encode (.popPc rlist),
    hlist.succ fun hw => State.memRead_stops fun f => execPopPc_of_error_last hw, fun hw => ?_⟩
  refine ⟨_, execPopPc_next hw, State.setLos_cpsr s _, State.sp_setSp (s.setLos _) _, ?_,
    (State.frame_setLos_listWords_setSp s s.sp rlist _).setPc _, fun k r hr => ?_⟩
  · rw [State.setPc_pc, State.peek_eq]
  · rw [State.lo_setPc, State.lo_setSp]
    exact State.lo_setLos_listWords s s s.sp hr

/-- Settles O37: past its checks STMIA stores the list's values at the old base, then writes the base. -/
theorem storeMultipleResults : Obligations.StoreMultipleResults := by
  intro s rb rlist n a baseNotLowestInList
  have hlen : (s.listValues rlist).length = n := State.listValues_length s rlist
  have hbase : baseNotLowest rb rlist = true ↔ baseNotLowestInList := baseNotLowest_iff
  have hn : n ≤ 8 := listRegs_length_le rlist
  rw [← hbase]
  refine ⟨decode_encode (.stmia rb rlist), fun h => if_pos h, execStmia_of_baseNotLowest,
    fun hne hb => hlen ▸ .of_storeWords fun f => execStmia_of_error hne hb, fun hne hb hm hw hp => ?_⟩
  obtain ⟨m, hstore, -, hother, hwords⟩ := State.storeWords_ok (vs := s.listValues rlist) hm (by omega) (hlen ▸ hw)
  rw [hlen] at hother
  refine ⟨_, execStmia_next hne hb hstore hp, rfl, rfl, ?_, ((Frame.of_setMem hother).setReg _ _).setPc _,
    fun k r hr => hwords k _ (s.listValues_getElem? hr)⟩
  rw [State.lo_setPc, State.lo_setLo, if_pos rfl]

/-- Settles O38: the base is written first, so that a listed base keeps the word loaded. -/
theorem loadMultipleResults : Obligations.LoadMultipleResults := by
  intro s rb rlist n a
  have hframe := (((Frame.refl s).setReg (loPReg rb) (slot a n)).setLos (s.listWords a rlist)).setPc (s.pc + 2)
  rw [State.listWords_fst] at hframe
  refine ⟨decode_encode (.ldmia rb rlist), fun h => if_pos h,
    fun hne => .of_loadWords fun f => execLdmia_of_error hne, fun hne hw hp => ?_⟩
  refine ⟨_, execLdmia_next hne hw hp, State.setLos_cpsr _ _, ⟨rfl, hframe⟩,
    fun k r hr => State.lo_setLos_listWords s (s.setLo rb _) a hr, fun hrb => ?_⟩
  rw [State.lo_setPc, State.lo_setLos_of_not_mem _ (by rwa [State.listWords_fst]), State.lo_setLo, if_pos rfl]

/-- Settles O39: PUSH leaves every register but SP, and POP finds each register's own value and moves SP back. -/
theorem pushThenPopRestores : Obligations.PushThenPopRestores := by
  intro s t rlist hm hpush hread hp
  obtain ⟨hne, hwords⟩ := execPush_cases hpush
  obtain ⟨-, hwritable, -⟩ := State.pushWords_cases hwords
  rw [State.listValues_length] at hwritable
  obtain ⟨-, -, -, -, -, -, hnext, -⟩ := pushResults s rlist
  obtain ⟨t', ht', hsp, hcpsr, hpc, hframe, hstored⟩ := hnext hne hm hwritable (by omega)
  obtain rfl : t = t' := Host.Outcome.next.inj (hpush.symm.trans ht')
  have hpcNat : t.pc.toNat = s.pc.toNat + 2 := hpc ▸ toNat_add_two (by omega)
  obtain ⟨-, -, -, hnext⟩ := popResults t rlist
  rw [hsp] at hnext
  obtain ⟨u, hu, hucpsr, husp, ⟨hupc, huframe⟩, hloaded⟩ :=
    hnext hne (fun k hk => hframe.readable (hread k hk)) (by omega)
  have hspSame : u.sp = s.sp := husp.trans (s.slot_pushStart _)
  rw [hcpsr] at huframe
  rw [State.sp, hucpsr, hcpsr] at hspSame
  refine ⟨u, hu, hframe.regs_restored huframe hspSame fun r hr => ?_, hucpsr.trans hcpsr, ?_⟩
  · obtain ⟨k, hk⟩ := List.mem_iff_getElem?.1 hr
    exact BitVec.eq_of_toNat_eq ((hloaded k r hk).trans (hstored k r hk))
  · rw [hupc, hpc, BitVec.add_assoc]
    rfl

end Sys2Proof.Proofs
end

section
/-! The mode, I, F, the reserved bits and the SPSRs along a run: what every instruction but SWI keeps, and why a run
that is still in THUMB state has executed no SWI (rules R24, R33, R35, R301, R310; log entries 13, 14). -/

namespace Sys2Proof.Machine

/-- The mode, the interrupt bits, the reserved bits and the SPSRs are the same (rules R24, R33). -/
structure SamePrivilege (s t : State) : Prop where
  mode : t.cpsr.mode = s.cpsr.mode
  i : t.cpsr.i = s.cpsr.i
  f : t.cpsr.f = s.cpsr.f
  reserved : t.cpsr.reserved = s.cpsr.reserved
  spsr : t.spsr = s.spsr

theorem SamePrivilege.refl (s : State) : SamePrivilege s s :=
  ⟨rfl, rfl, rfl, rfl, rfl⟩

theorem SamePrivilege.trans {s t u : State} (h : SamePrivilege s t) (h' : SamePrivilege t u) : SamePrivilege s u :=
  ⟨h'.mode.trans h.mode, h'.i.trans h.i, h'.f.trans h.f, h'.reserved.trans h.reserved, h'.spsr.trans h.spsr⟩

theorem KeepsControl.samePrivilege {s u : State} (h : KeepsControl s u) : SamePrivilege s u :=
  ⟨h.mode, h.i, h.f, h.reserved, h.spsr⟩

theorem State.exchange_samePrivilege {s t : State} {v : Word} (h : s.exchange v = .next t) : SamePrivilege s t := by
  rcases State.exchange_cases h with ⟨-, rfl⟩ | ⟨-, rfl⟩ <;> exact ⟨rfl, rfl, rfl, rfl, rfl⟩

/-- The pc is no part of them. -/
theorem SamePrivilege.setPc {s t : State} (h : SamePrivilege s t) (a : Word) : SamePrivilege s (t.setPc a) :=
  ⟨h.mode, h.i, h.f, h.reserved, h.spsr⟩

/-- Every way to complete but the exception entry of SWI keeps them. -/
theorem Completes.samePrivilege {s t : State} {i : Instr} (h : Completes s i t) (hk : kindOf i ≠ .swi) :
    SamePrivilege s t := by
  cases h with
  | goesOn _ hw => exact hw.keepsControl.samePrivilege.setPc _
  | branchIf | branch | writesR15 => exact (SamePrivilege.refl s).setPc _
  | popPc rlist l v a => exact (Writes.pop l v).keepsControl.samePrivilege.setPc _
  | blLow off11 v a => exact (Writes.link v).keepsControl.samePrivilege.setPc _
  | exchange v _ hx => exact State.exchange_samePrivilege hx
  | swi value8 hi => exact absurd hi hk

/-! ### The exception entry -/

/-- An instruction of the kind of SWI takes the software interrupt exception (rule R301). -/
theorem exec_of_kind_swi {i : Instr} {s t : State} (hk : kindOf i = .swi) (h : exec i s = .next t) :
    ∃ value8, t = (s.enterException .svc Config.swiVector (s.pc + 2)).setExit (.softwareInterrupt value8) := by
  obtain ⟨value8, rfl⟩ := kindOf_eq_swi hk
  exact ⟨value8, (Host.Outcome.next.inj ((exec_swi_eq value8 s).symm.trans h)).symm⟩

/-- No instruction changes F or the reserved bits, SWI included (rules R33, R301). -/
theorem exec_keeps_f_reserved {i : Instr} {s t : State} (h : exec i s = .next t) :
    t.cpsr.f = s.cpsr.f ∧ t.cpsr.reserved = s.cpsr.reserved := by
  by_cases hk : kindOf i = .swi
  · obtain ⟨value8, rfl⟩ := exec_of_kind_swi hk h
    exact ⟨rfl, rfl⟩
  · have hs := (exec_completes h).samePrivilege hk
    exact ⟨hs.f, hs.reserved⟩

/-- The software interrupt exception writes R14_svc, SPSR_svc, the CPSR, the pc and the recorded outcome, and nothing
else (rule R301; log entries 11, 14, 32). -/
theorem exec_swi_next (value8 : BitVec 8) (s : State) :
    ∃ t, exec (.swi value8) s = .next t ∧ t.pc = Config.swiVector ∧ t.regs.get .r14Svc = s.pc + 2 ∧
      t.spsr = { s.spsr with svc := s.cpsr } ∧ t.cpsr = s.cpsr.entering .svc ∧
      t.lastExit = some (.softwareInterrupt value8) ∧
      Frame { s with spsr := t.spsr, lastExit := t.lastExit } t [.r14Svc] noBytes :=
  ⟨_, exec_swi_eq value8 s, rfl, RegFile.get_set_same s.regs .r14Svc (s.pc + 2), rfl, rfl, rfl,
    fun _ hp => RegFile.get_set_other _ _ (mt List.mem_singleton.2 hp), fun _ _ => rfl, rfl, rfl, rfl, rfl, rfl⟩

/-! ### Runs -/

/-- A step that stays in THUMB state executed no SWI. -/
theorem step_samePrivilege {s t : State} (h : step s = .next t) (ht : t.cpsr.t = true) : SamePrivilege s t := by
  obtain ⟨-, w, -, hexec⟩ := step_cases h
  refine (exec_completes hexec).samePrivilege fun hk => ?_
  obtain ⟨value8, rfl⟩ := exec_of_kind_swi hk hexec
  cases ht

/-- A run that ends in THUMB state starts in it, since a step is taken in THUMB state only (log entry 13). -/
theorem Reaches.start_thumb {n : Nat} {s t : State} (h : Reaches n s t) (ht : t.cpsr.t = true) : s.cpsr.t = true := by
  cases n with
  | zero => exact (show s = t from h) ▸ ht
  | succ n =>
    obtain ⟨u, hstep, -⟩ := h
    exact (step_cases hstep).1

/-- Each state of a run that ends in THUMB state is in THUMB state, so each of its steps keeps the privilege. -/
theorem Reaches.samePrivilege {n : Nat} {s t : State} (h : Reaches n s t) (ht : t.cpsr.t = true) :
    SamePrivilege s t := by
  induction n generalizing s with
  | zero => exact (show s = t from h) ▸ .refl s
  | succ n ih =>
    obtain ⟨u, hstep, hrest⟩ := h
    exact (step_samePrivilege hstep (hrest.start_thumb ht)).trans (ih hrest)

end Sys2Proof.Machine
end

section
/-! The statements on the mode, the entry of SWI and the reset state. -/

namespace Sys2Proof.Proofs

open Sys2Proof.Machine

/-- Settles O57: by induction on the steps, each of which stays in THUMB state and so is no SWI. -/
theorem thumbRunsKeepMode : Obligations.ThumbRunsKeepMode := by
  intro n s t h ht
  obtain ⟨hmode, hi, hf, hreserved, hspsr⟩ := h.samePrivilege ht
  exact ⟨hmode, hi, hf, hreserved, hspsr⟩

/-- Settles O52: of the ways to complete only SWI's exception entry writes the mode, I and an SPSR. -/
theorem modeChangesOnlyBySwi : Obligations.ModeChangesOnlyBySwi := by
  intro i s t h
  obtain ⟨hf, hreserved⟩ := exec_keeps_f_reserved h
  refine ⟨hf, hreserved, fun hk => ?_⟩
  have hs := (exec_completes h).samePrivilege hk
  exact ⟨hs.mode, hs.i, hs.spsr⟩

/-- Settles O46: the entry leaves ARM state, in which the next step is refused with the outcome recorded. -/
theorem swiEntry : Obligations.SwiEntry := by
  intro s value8
  obtain ⟨t, ht, hpc, hlr, hspsr, hcpsr, hexit, hframe⟩ := exec_swi_next value8 s
  have hrefused : step t = .refused (.armState t.pc t.lastExit) := step_arm (by rw [hcpsr, Psr.entering_t])
  rw [hexit] at hframe hrefused
  rw [hpc] at hrefused
  exact ⟨decode_encode (.swi value8), t, ht, hpc, hlr, hspsr, hcpsr, hframe, hrefused⟩

/-- Settles O49: at pc 0, aligned for either processor state, with empty memory. -/
theorem resetInvariant : Obligations.ResetInvariant :=
  ⟨rfl, .of_thumb rfl rfl rfl, .of_arm rfl rfl rfl⟩

end Sys2Proof.Proofs
end

section
/-! Branches: where a condition leads, what the conditions mean after a comparison, and the two halves of BL (rules R11,
R26, R106 to R108, R177, R260, R279 to R283; log entries 22, 24, 26, 28). -/

namespace Sys2Proof.Machine

/-! ### Formats 16 and 18 -/

/-- The target of a branch as a number modulo 2^32 (rules R26, R106, R107). -/
theorem branchTarget_eq (s : State) {n : Nat} (off : BitVec n) (h : n ≤ 32) :
    s.pcRead + branchOffset off = BitVec.ofInt 32 (s.pc.toNat + 4 + 2 * off.toInt) := by
  rw [branchOffset_eq off h, pcRead_add_ofInt]

theorem State.branchIf_taken {s : State} {k : Cond} (h : k.holds s.cpsr = true) (offset : Word) :
    s.branchIf k offset = .next (s.setPc (s.pcRead + offset)) :=
  if_pos h

/-- The row of a condition code: the word with that code decodes to the branch, which goes to its target when the
condition holds and on to the next halfword when it does not (rule R260). -/
theorem condBranch_results {off : BitVec 8} {cc : BitVec 4} {i : Instr} {k : Cond} (hi : (i, k) ∈ condBranches off)
    (hw : encode i = 0b1101#4 ++ cc ++ off) (s : State) :
    decode (0b1101#4 ++ cc ++ off) = i ∧
      (k.holds s.cpsr = true →
        ∃ t, exec i s = .next t ∧ JumpsOnly s t (BitVec.ofInt 32 (s.pc.toNat + 4 + 2 * off.toInt))) ∧
      (k.holds s.cpsr = false → s.pc.toNat + 2 < 2 ^ 32 →
        ∃ t, exec i s = .next t ∧ JumpsOnly s t (s.pc + 2)) := by
  rw [exec_of_mem_condBranches hi, ← branchTarget_eq s off (by decide)]
  refine ⟨hw ▸ decode_encode i, fun hk => ?_, fun hk hp => ?_⟩
  · exact ⟨_, State.branchIf_taken hk _, State.jumpsOnly_setPc s _⟩
  · rw [State.branchIf_untaken hk]
    exact ⟨_, State.advance_next hp, State.jumpsOnly_setPc s _⟩

/-! ### The flags of a comparison -/

section
variable {p q : Psr} {a b r : Word} (h : IsDiff p q a b 0 r)
include h

/-- Z after a comparison is equality (rule R260). -/
theorem IsDiff.z_iff : q.z = true ↔ a = b := by
  obtain ⟨hr, rfl⟩ := h
  have ha := a.isLt
  have hb := b.isLt
  simp only [Psr.after, decide_eq_true_eq, BitVec.toNat_eq]
  omega

/-- C after a comparison is the unsigned order (rules R11, R260). -/
theorem IsDiff.c_iff : q.c = true ↔ b.toNat ≤ a.toNat := by
  obtain ⟨-, rfl⟩ := h
  simp [Psr.after]

/-- N equal to V after a comparison is the signed order: V says whether N, the sign of the difference, is the wrong one
(rules R11, R260). -/
theorem IsDiff.n_eq_v_iff : q.n = q.v ↔ b.toInt ≤ a.toInt := by
  obtain ⟨hr, rfl⟩ := h
  have ha := a.isLt
  have hb := b.isLt
  have hd := r.isLt
  simp only [Psr.after, decide_eq_decide, BitVec.toInt_eq_toNat_cond]
  split <;> split <;> split <;> omega

end

/-- CMP of two Lo registers leaves the flags of their difference (rule R151). -/
theorem exec_cmpReg_isDiff {s t : State} {rd rs : LoReg} (h : exec (.cmpReg rd rs) s = .next t) :
    ∃ r, IsDiff s.cpsr t.cpsr (s.lo rd) (s.lo rs) 0 r := by
  obtain ⟨-, rfl⟩ := State.advance_cases h
  exact ⟨_, isDiff_subOp s.cpsr (s.lo rd) (s.lo rs)⟩

/-! ### Format 19 -/

/-- The first half of BL puts the PC plus the high part of the offset in LR (rule R281). -/
theorem exec_blHigh_next {s : State} (hp : s.pc.toNat + 2 < 2 ^ 32) (off11 : BitVec 11) :
    ∃ t, exec (.blHigh off11) s = .next t ∧
      WritesOnly s t (lrPReg s.cpsr.mode) (BitVec.ofInt 32 (s.pc.toNat + 4 + 4096 * off11.toInt)) := by
  rw [← pcRead_add_ofInt, ← blHighOffset_eq]
  exact State.next_of_setReg hp (lrPReg s.cpsr.mode) (s.pcRead + blHighOffset off11)

/-- The second half of BL goes to LR plus the low part of the offset, bit 0 dropped, and leaves the return address with
bit 0 set in LR (rules R177, R282). -/
theorem exec_blLow_next (s : State) (off11 : BitVec 11) :
    ∃ t, exec (.blLow off11) s = .next t ∧ t.pc = dropBit0 (BitVec.ofNat 32 (s.lr.toNat + 2 * off11.toNat)) ∧
      t.lr = ((s.pc + 2) ||| 1) ∧ t.cpsr = s.cpsr ∧ Frame s t [lrPReg s.cpsr.mode] noBytes := by
  refine ⟨_, rfl, ?_, RegFile.get_set_same _ _ _, rfl, ((Frame.refl s).setReg _ _).setPc _⟩
  rw [State.branchTo_pc, and_even, add_ofNat, blLowOffset_toNat]

/-! ### One instruction after another -/

theorem Frame.trans {s t u : State} {ps : List PReg} {stored : Nat → Prop} (h : Frame s t ps stored)
    (h' : Frame t u ps stored) : Frame s u ps stored :=
  ⟨fun p hp => (h'.regs p hp).trans (h.regs p hp), fun x hx => (h'.mem x hx).trans (h.mem x hx),
    h'.spsr.trans h.spsr, h'.endian.trans h.endian, h'.memAdmit.trans h.memAdmit, h'.codeRange.trans h.codeRange,
    h'.lastExit.trans h.lastExit⟩

theorem dropBit0_of_even {v : Word} (h : v.toNat % 2 = 0) : dropBit0 v = v := by
  apply BitVec.eq_of_toNat_eq
  rw [dropBit0_toNat]
  omega

/-! ### The distance of BL -/

/-- D[22:12], sign-extended, is the distance divided by 4096 (rules R108, R281). -/
theorem toInt_linkHigh {d : Int} (hlo : -4194304 ≤ d) (hhi : d ≤ 4194302) :
    (BitVec.ofInt 11 (d / 2 ^ 12)).toInt = d / 2 ^ 12 :=
  BitVec.toInt_ofInt_eq_self (by decide) (by norm_num; omega) (by norm_num; omega)

/-- D[11:1] is half the distance modulo 2048 (rules R108, R282). -/
theorem toNat_linkLow (d : Int) : ((BitVec.ofInt 11 (d / 2)).toNat : Int) = d / 2 % 2048 := by
  rw [BitVec.toNat_ofInt]
  omega

/-- The high part of an even distance in LR and twice the low part added is the whole distance (rule R283). -/
theorem linkTarget_eq {d : Int} (hd : d % 2 = 0) (base : Int) :
    BitVec.ofNat 32 ((BitVec.ofInt 32 (base + d / 2 ^ 12 * 2 ^ 12)).toNat + 2 * (BitVec.ofInt 11 (d / 2)).toNat) =
      BitVec.ofInt 32 (base + d) := by
  have hlow := toNat_linkLow d
  rw [BitVec.ofNat_add, BitVec.ofNat_toNat, BitVec.setWidth_eq, ← BitVec.ofInt_natCast, ← BitVec.ofInt_add]
  congr 1
  push_cast
  omega

theorem toNat_ofInt_even {x : Int} (h : x % 2 = 0) : (BitVec.ofInt 32 x).toNat % 2 = 0 := by
  rw [BitVec.toNat_ofInt]
  omega

end Sys2Proof.Machine
end

section
/-! The statements of the branch family. -/

namespace Sys2Proof.Proofs

open Sys2Proof.Machine

/-- Settles O40: each row by its condition. -/
theorem flagBranchResults : Obligations.FlagBranchResults := by
  intro s off cc i taken p h
  simp only [List.mem_cons, List.not_mem_nil, or_false, Prod.mk.injEq] at h
  obtain ⟨rfl, rfl, rfl⟩ | ⟨rfl, rfl, rfl⟩ | ⟨rfl, rfl, rfl⟩ | ⟨rfl, rfl, rfl⟩ | ⟨rfl, rfl, rfl⟩ | ⟨rfl, rfl, rfl⟩ |
    ⟨rfl, rfl, rfl⟩ := h
  · exact condBranch_results (k := .eq) (by simp [condBranches]) rfl s
  · exact condBranch_results (k := .ne) (by simp [condBranches]) rfl s
  · exact condBranch_results (k := .cs) (by simp [condBranches]) rfl s
  · exact condBranch_results (k := .cc) (by simp [condBranches]) rfl s
  · exact condBranch_results (k := .mi) (by simp [condBranches]) rfl s
  · exact condBranch_results (k := .pl) (by simp [condBranches]) rfl s
  · exact condBranch_results (k := .vs) (by simp [condBranches]) rfl s

/-- Settles O41: each row by its condition. -/
theorem compareBranchResults : Obligations.CompareBranchResults := by
  intro s off cc i taken p h
  simp only [List.mem_cons, List.not_mem_nil, or_false, Prod.mk.injEq] at h
  obtain ⟨rfl, rfl, rfl⟩ | ⟨rfl, rfl, rfl⟩ | ⟨rfl, rfl, rfl⟩ | ⟨rfl, rfl, rfl⟩ | ⟨rfl, rfl, rfl⟩ | ⟨rfl, rfl, rfl⟩ |
    ⟨rfl, rfl, rfl⟩ := h
  · exact condBranch_results (k := .vc) (by simp [condBranches]) rfl s
  · exact condBranch_results (k := .hi) (by simp [condBranches]) rfl s
  · exact condBranch_results (k := .ls) (by simp [condBranches]) rfl s
  · exact condBranch_results (k := .ge) (by simp [condBranches]) rfl s
  · exact condBranch_results (k := .lt) (by simp [condBranches]) rfl s
  · exact condBranch_results (k := .gt) (by simp [condBranches]) rfl s
  · exact condBranch_results (k := .le) (by simp [condBranches]) rfl s

/-- Settles O42: Z is equality, C the unsigned order and N equal to V the signed order; each condition is made of
these. -/
theorem branchAfterCompare : Obligations.BranchAfterCompare := by
  intro s t rd rs h a b
  obtain ⟨r, hdiff⟩ := exec_cmpReg_isDiff h
  have hz : t.cpsr.z = true ↔ a = b := hdiff.z_iff
  have hc : t.cpsr.c = true ↔ b.toNat ≤ a.toNat := hdiff.c_iff
  have hnv : t.cpsr.n = t.cpsr.v ↔ b.toInt ≤ a.toInt := hdiff.n_eq_v_iff
  have hnat : a = b ↔ a.toNat = b.toNat := BitVec.toNat_eq
  have hint : a = b ↔ a.toInt = b.toInt := BitVec.toInt_inj.symm
  simp only [Cond.holds, Bool.and_eq_true, Bool.or_eq_true, Bool.not_eq_true', ← Bool.not_eq_true, beq_iff_eq,
    bne_iff_ne, ne_eq, hz, hc, hnv]
  refine ⟨trivial, trivial, trivial, not_le, ?_, ?_, trivial, not_le, ?_, ?_⟩
  · rw [hnat]; omega
  · rw [hnat]; omega
  · rw [hint]; omega
  · rw [hint]; omega

/-- Settles O43: the target as a number. -/
theorem branchResult : Obligations.BranchResult := by
  intro s off11
  rw [← branchTarget_eq s off11 (by decide)]
  exact ⟨decode_encode (.b off11), _, rfl, State.jumpsOnly_setPc s _⟩

/-- Settles O44: each half by what it leaves. -/
theorem linkHalvesResults : Obligations.LinkHalvesResults :=
  fun s off11 => ⟨decode_encode (.blHigh off11), decode_encode (.blLow off11),
    fun hp => exec_blHigh_next hp off11, exec_blLow_next s off11⟩

/-- Settles O45: the second half adds the low part of the distance to what the first left in LR. -/
theorem linkPairCalls : Obligations.LinkPairCalls := by
  intro s d heven hp hd hlo hhi
  obtain ⟨t, ht, hvalue, hcpsr, hpc, hframe⟩ := exec_blHigh_next hp (BitVec.ofInt 11 (d / 2 ^ 12))
  obtain ⟨u, hu, hupc, hulr, hucpsr, huframe⟩ := exec_blLow_next t (BitVec.ofInt 11 (d / 2))
  have hlr : t.lr = BitVec.ofInt 32 (s.pc.toNat + 4 + d / 2 ^ 12 * 2 ^ 12) := by
    rw [State.lr, hcpsr, hvalue, toInt_linkHigh hlo hhi, Int.mul_comm]
    rfl
  rw [hlr, linkTarget_eq hd, dropBit0_of_even (toNat_ofInt_even (by omega))] at hupc
  rw [hpc, BitVec.add_assoc] at hulr
  rw [hcpsr] at huframe
  exact ⟨t, u, ht, hpc, hlr, hu, hupc, hulr, hucpsr.trans hcpsr, hframe.trans huframe⟩

end Sys2Proof.Proofs
end

section
/-! The faults for an instruction's encoding: every instruction that is not well-formed meets one, no well-formed one
does in any state, and each of those completes in the reset state (rules R111 to R113, R175, R246, R248, R302, R303;
log entries 15, 16). -/

namespace Sys2Proof.Machine

/-! ### Faults for the encoding -/

/-- The stop depends on the instruction alone, not on the state: an undefined word, nonzero bits of BX, an empty list,
or a base register of STMIA that is listed and not the lowest. -/
def Fault.forEncoding : Fault → Bool
  | .undefinedInstruction _ _ => true
  | .unpredictable .bxBitsNonzero _ => true
  | .unpredictable .emptyRegisterList _ => true
  | .unpredictable .stmBaseNotLowest _ => true
  | _ => false

/-- An answer that is no stop for the encoding. -/
def AcceptsEncoding (r : Result) : Prop :=
  ∀ f, r = .fault f → f.forEncoding = false

theorem AcceptsEncoding.next (t : State) : AcceptsEncoding (.next t) := by
  intro f hf
  cases hf

theorem AcceptsEncoding.fault {f : Fault} (h : f.forEncoding = false) : AcceptsEncoding (.fault f) :=
  fun _ hf => Host.Outcome.fault.inj hf ▸ h

/-! ### The shared operations -/

theorem State.advance_acceptsEncoding (s : State) : AcceptsEncoding s.advance := by
  unfold State.advance
  split
  · exact .fault rfl
  · exact .next _

theorem State.branchIf_acceptsEncoding (s : State) (k : Cond) (offset : Word) :
    AcceptsEncoding (s.branchIf k offset) := by
  unfold State.branchIf
  split
  · exact .next _
  · exact s.advance_acceptsEncoding

theorem State.finishHi_acceptsEncoding (s : State) (hd : HiReg) (v : Word) : AcceptsEncoding (s.finishHi hd v) := by
  unfold State.finishHi
  split
  · exact State.advance_acceptsEncoding _
  · exact .next _

theorem State.exchange_acceptsEncoding (s : State) (v : Word) : AcceptsEncoding (s.exchange v) := by
  unfold State.exchange
  split
  · exact .next _
  · split
    · exact .fault rfl
    · exact .next _

/-- A data read stops for its address only (rules R53, R55). -/
theorem State.memRead_error {s : State} {a : Word} {w : Width} {f : Fault} (h : s.memRead a w = .error f) :
    f.forEncoding = false := by
  unfold State.memRead at h
  split at h
  · cases h; rfl
  · split at h
    · cases h; rfl
    · cases h

/-- A data write stops for its address only (rules R53, R55, R66). -/
theorem State.memWrite_error {s : State} {a : Word} {w : Width} {v : Word} {f : Fault}
    (h : s.memWrite a w v = .error f) : f.forEncoding = false := by
  unfold State.memWrite at h
  split at h
  · cases h; rfl
  · split at h
    · cases h; rfl
    · split at h
      · cases h; rfl
      · cases h

theorem State.loadWords_error {s : State} {a : Word} {n : Nat} {f : Fault} (h : s.loadWords a n = .error f) :
    f.forEncoding = false := by
  induction n generalizing a with
  | zero => cases h
  | succ n ih =>
    simp only [State.loadWords] at h
    split at h
    · cases h
      exact State.memRead_error ‹_›
    · split at h
      · cases h
        exact ih ‹_›
      · cases h

theorem State.storeWords_error {s : State} {a : Word} {vs : List Word} {f : Fault}
    (h : s.storeWords a vs = .error f) : f.forEncoding = false := by
  induction vs generalizing s a with
  | nil => cases h
  | cons v vs ih =>
    simp only [State.storeWords] at h
    split at h
    · cases h
      exact State.memWrite_error ‹_›
    · exact ih h

theorem State.load_acceptsEncoding (s : State) (rd : LoReg) (a : Word) (w : Width) (ext : Word → Word) :
    AcceptsEncoding (s.load rd a w ext) := by
  unfold State.load
  split
  · exact .fault (State.memRead_error ‹_›)
  · exact State.advance_acceptsEncoding _

theorem State.store_acceptsEncoding (s : State) (a : Word) (w : Width) (v : Word) :
    AcceptsEncoding (s.store a w v) := by
  unfold State.store
  split
  · exact .fault (State.memWrite_error ‹_›)
  · exact State.advance_acceptsEncoding _

theorem State.pushWords_acceptsEncoding (s : State) (vs : List Word) : AcceptsEncoding (s.pushWords vs) := by
  unfold State.pushWords
  split
  · exact .fault (State.storeWords_error ‹_›)
  · exact State.advance_acceptsEncoding _

/-! ### The meanings with checks of their own -/

theorem sbzOk_iff {sbz : BitVec 3} : sbzOk sbz = true ↔ sbz = 0 :=
  beq_iff_eq

theorem sbzOk_eq_false_iff {sbz : BitVec 3} : sbzOk sbz = false ↔ sbz ≠ 0 :=
  beq_eq_false_iff_ne

theorem listOk_iff {rlist : BitVec 8} : listOk rlist = true ↔ rlist ≠ 0 :=
  bne_iff_ne

theorem listOk_eq_false_iff {rlist : BitVec 8} : listOk rlist = false ↔ rlist = 0 :=
  bne_eq_false_iff_eq

theorem wellFormed_stmia_iff {rb : LoReg} {rlist : BitVec 8} :
    (Instr.stmia rb rlist).wellFormed = true ↔ rlist ≠ 0 ∧ ¬ baseNotLowest rb rlist = true := by
  rw [Instr.wellFormed, Bool.and_eq_true, listOk_iff, stmBaseOk, Bool.not_eq_true', Bool.not_eq_true]

theorem wellFormed_stmia_eq_false_iff {rb : LoReg} {rlist : BitVec 8} :
    (Instr.stmia rb rlist).wellFormed = false ↔ rlist = 0 ∨ baseNotLowest rb rlist = true := by
  rw [Instr.wellFormed, Bool.and_eq_false_iff, listOk_eq_false_iff, stmBaseOk, Bool.not_eq_false']

theorem execBxHi_acceptsEncoding (hs : HiReg) (s : State) : AcceptsEncoding (execBxHi hs 0 s) := by
  rw [execBxHi, if_neg (by decide)]
  split
  · exact .fault rfl
  · exact State.exchange_acceptsEncoding _ _

section
variable {rlist : BitVec 8} (hne : rlist ≠ 0)
include hne

theorem execPop_acceptsEncoding (s : State) : AcceptsEncoding (execPop rlist s) := by
  rw [execPop, if_neg hne]
  split
  · exact .fault (State.loadWords_error ‹_›)
  · exact State.advance_acceptsEncoding _

theorem execStmia_acceptsEncoding {rb : LoReg} (hb : ¬ baseNotLowest rb rlist = true) (s : State) :
    AcceptsEncoding (execStmia rb rlist s) := by
  rw [execStmia, if_neg hne, if_neg hb]
  split
  · exact .fault (State.storeWords_error ‹_›)
  · exact State.advance_acceptsEncoding _

theorem execLdmia_acceptsEncoding (rb : LoReg) (s : State) : AcceptsEncoding (execLdmia rb rlist s) := by
  rw [execLdmia, if_neg hne]
  split
  · exact .fault (State.loadWords_error ‹_›)
  · exact State.advance_acceptsEncoding _

end

theorem execPopPc_acceptsEncoding (rlist : BitVec 8) (s : State) : AcceptsEncoding (execPopPc rlist s) := by
  unfold execPopPc
  split
  · exact .fault (State.loadWords_error ‹_›)
  · split
    · exact .fault (State.memRead_error ‹_›)
    · exact .next _

/-! ### Every instruction -/

/-- Past the checks of its own that a well-formed instruction passes, every instruction ends in one of the shared
operations. -/
theorem exec_acceptsEncoding {i : Instr} (h : i.wellFormed = true) (s : State) : AcceptsEncoding (exec i s) := by
  cases i with
  | lslImm | lsrImm | asrImm | addReg | addImm3 | subReg | subImm3 | movImm | cmpImm | addImm8 | subImm8 | andReg
  | eorReg | lslReg | lsrReg | asrReg | adcReg | sbcReg | rorReg | tstReg | negReg | cmpReg | cmnReg | orrReg | mulReg
  | bicReg | mvnReg | addLoHi | cmpLoHi | cmpHiLo | cmpHiHi | movLoHi | addPc | addSpRd | addSpPos | addSpNeg
  | blHigh => exact State.advance_acceptsEncoding _
  | addHiLo | addHiHi | movHiLo | movHiHi => exact State.finishHi_acceptsEncoding _ _ _
  | ldrPc | ldrReg | ldrbReg | ldrhReg | ldsbReg | ldshReg | ldrImm | ldrbImm | ldrhImm
  | ldrSp => exact State.load_acceptsEncoding _ _ _ _ _
  | strReg | strbReg | strhReg | strImm | strbImm | strhImm | strSp => exact State.store_acceptsEncoding _ _ _ _
  | beq | bne | bcs | bcc | bmi | bpl | bvs | bvc | bhi | bls | bge | blt | bgt
  | ble => exact State.branchIf_acceptsEncoding _ _ _
  | bxLo rs sbz =>
    obtain rfl := sbzOk_iff.1 h
    exact State.exchange_acceptsEncoding _ _
  | bxHi hs sbz =>
    obtain rfl := sbzOk_iff.1 h
    exact execBxHi_acceptsEncoding hs s
  | push rlist =>
    rw [exec_push_of_ne_zero (listOk_iff.1 h)]
    exact State.pushWords_acceptsEncoding _ _
  | pushLr => exact State.pushWords_acceptsEncoding _ _
  | pop rlist => exact execPop_acceptsEncoding (listOk_iff.1 h) s
  | popPc rlist => exact execPopPc_acceptsEncoding rlist s
  | stmia rb rlist =>
    obtain ⟨hne, hb⟩ := wellFormed_stmia_iff.1 h
    exact execStmia_acceptsEncoding hne hb s
  | ldmia rb rlist => exact execLdmia_acceptsEncoding (listOk_iff.1 h) rb s
  | swi | b | blLow => exact .next _
  | undefAddLoLo | undefCmpLoLo | undefMovLoLo | undefBxH1 | undefCond1110 | undefB1 | undefB2B3 | undefB6B7
  | undefB8BB | undefBEBF | undefE8EF => cases h

/-- What makes an instruction ill-formed stops it before it looks at the state (log entries 15, 16). -/
theorem exec_of_not_wellFormed {i : Instr} (h : i.wellFormed = false) (s : State) : ∃ f, exec i s = .fault f := by
  cases i with
  | undefAddLoLo | undefCmpLoLo | undefMovLoLo | undefBxH1 | undefCond1110 | undefB1 | undefB2B3 | undefB6B7
  | undefB8BB | undefBEBF | undefE8EF => exact ⟨_, exec_undefined rfl s⟩
  | bxLo rs sbz => exact ⟨_, execBxLo_of_ne_zero rs (sbzOk_eq_false_iff.1 h) s⟩
  | bxHi hs sbz => exact ⟨_, execBxHi_of_ne_zero hs (sbzOk_eq_false_iff.1 h) s⟩
  | push | pop | ldmia => exact ⟨_, if_pos (listOk_eq_false_iff.1 h)⟩
  | stmia rb rlist =>
    obtain hzero | hbase := wellFormed_stmia_eq_false_iff.1 h
    · exact ⟨_, if_pos hzero⟩
    · exact ⟨_, execStmia_of_baseNotLowest hbase⟩
  | _ => cases h

/-! ### A state in which every well-formed instruction has an effect -/

/-- An answer that is a next state. -/
def HasNext (r : Result) : Prop :=
  ∃ t, r = .next t

theorem HasNext.next (t : State) : HasNext (.next t) :=
  ⟨t, rfl⟩

/-- The pc and every register of the mode read zero, and the platform admits every aligned access, none of them to code,
as in the reset state. Then every address an instruction makes is aligned, and BX goes to a multiple of 4. -/
structure Cleared (s : State) : Prop where
  pc : s.pc = 0
  lo : ∀ r, s.lo r = 0
  hi : ∀ h, h ≠ .r15 → s.hi h = 0
  mem : s.mem.wf = true
  readable : ∀ a w, a.toNat % w.bytes = 0 → s.Readable a w
  writable : ∀ a w, a.toNat % w.bytes = 0 → s.Writable a w

theorem cleared_reset : Cleared State.reset where
  pc := rfl
  lo r := by cases r <;> rfl
  hi h hne := by
    cases h with
    | r15 => exact absurd rfl hne
    | _ => rfl
  mem := rfl
  readable _ _ h := ⟨h, reset_admits (aligned_iff.2 h) .read⟩
  writable _ _ h := ⟨h, rfl, reset_admits (aligned_iff.2 h) .write⟩

theorem State.advance_hasNext {s : State} (hp : s.pc.toNat + 2 < 2 ^ 32) : HasNext s.advance :=
  ⟨_, State.advance_next hp⟩

namespace Cleared

variable {s : State} (hs : Cleared s)
include hs

theorem pc_lt : s.pc.toNat + 2 < 2 ^ 32 := by
  rw [hs.pc]
  decide

theorem sp : s.sp = 0 :=
  hs.hi .r13 (by decide)

/-! ### The shared operations, from such a state -/

theorem branchIf_hasNext (k : Cond) (offset : Word) : HasNext (s.branchIf k offset) := by
  unfold State.branchIf
  split
  · exact .next _
  · exact State.advance_hasNext hs.pc_lt

theorem finishHi_hasNext (hd : HiReg) (v : Word) : HasNext (s.finishHi hd v) := by
  unfold State.finishHi
  split
  · exact State.advance_hasNext (s := s.setReg _ v) hs.pc_lt
  · exact .next _

theorem load_hasNext (rd : LoReg) {a : Word} (w : Width) (ext : Word → Word) (h : a.toNat % w.bytes = 0) :
    HasNext (s.load rd a w ext) :=
  ⟨_, State.load_next (hs.readable a w h) hs.pc_lt⟩

theorem store_hasNext {a : Word} (w : Width) (v : Word) (h : a.toNat % w.bytes = 0) : HasNext (s.store a w v) :=
  ⟨_, State.store_next (hs.writable a w h) hs.pc_lt⟩

theorem readable_slot {a : Word} (h : a = 0) (k : Nat) : s.Readable (slot a k) .word :=
  hs.readable _ _ (slot_aligned (by rw [h]; rfl) k)

theorem pushWords_hasNext {vs : List Word} (hn : vs.length < 2 ^ 30) : HasNext (s.pushWords vs) := by
  have hstart : (s.pushStart vs.length).toNat % 4 = 0 := by
    rw [State.pushStart, hs.sp, wordBytes_eq, BitVec.toNat_sub, BitVec.toNat_ofNat]
    have h0 : (0 : Word).toNat = 0 := rfl
    omega
  obtain ⟨t, ht, -⟩ :=
    State.pushWords_next hs.mem hn (fun k _ => hs.writable _ _ (slot_aligned hstart k)) hs.pc_lt
  exact ⟨t, ht⟩

/-! ### The addresses of loads and stores of one register, from such a state -/

theorem regAddr_aligned (rb ro : LoReg) (w : Width) : (s.regAddr rb ro).toNat % w.bytes = 0 := by
  rw [State.regAddr, hs.lo, hs.lo]
  exact Nat.zero_mod _

theorem immAddr_word_aligned (rb : LoReg) (off5 : BitVec 5) :
    (s.immAddr rb (wordOffset off5)).toNat % Width.word.bytes = 0 := by
  rw [State.immAddr, hs.lo, zero_add, wordOffset_toNat off5 (by decide)]
  exact Nat.mul_mod_right ..

theorem immAddr_half_aligned (rb : LoReg) (off5 : BitVec 5) :
    (s.immAddr rb (halfOffset off5)).toNat % Width.half.bytes = 0 := by
  rw [State.immAddr, hs.lo, zero_add, halfOffset_toNat off5 (by decide)]
  exact Nat.mul_mod_right ..

theorem spAddr_aligned (word8 : BitVec 8) : (s.spAddr word8).toNat % Width.word.bytes = 0 := by
  rw [State.spAddr, hs.sp, zero_add, wordOffset_toNat word8 le_rfl]
  exact Nat.mul_mod_right ..

/-! ### The meanings with checks of their own, from such a state -/

theorem execBxHi_hasNext (hd : HiReg) : HasNext (execBxHi hd 0 s) := by
  by_cases hd15 : hd = .r15
  · subst hd15
    rw [execBxHi_r15_aligned (by rw [hs.pc]; rfl)]
    exact ⟨_, State.exchange_arm (by rw [hs.pc]; rfl)⟩
  · rw [execBxHi_zero_of_ne hd15]
    exact ⟨_, State.exchange_arm (by rw [hs.hi hd hd15]; rfl)⟩

theorem execStmia_hasNext {rb : LoReg} {rlist : BitVec 8} (hne : rlist ≠ 0) (hb : ¬ baseNotLowest rb rlist = true) :
    HasNext (execStmia rb rlist s) := by
  have hlen := listRegs_length_le rlist
  obtain ⟨m, hstore, -⟩ := State.storeWords_ok (a := s.lo rb) (vs := s.listValues rlist) hs.mem
    (by rw [State.listValues_length]; omega)
    fun k _ => hs.writable _ _ (slot_aligned (by rw [hs.lo]; rfl) k)
  exact ⟨_, execStmia_next hne hb hstore hs.pc_lt⟩

/-! ### Every instruction, from such a state -/

/-- A well-formed instruction passes its own checks, and no access, target or pc stops it in such a state. -/
theorem exec_hasNext {i : Instr} (h : i.wellFormed = true) : HasNext (exec i s) := by
  cases i with
  | lslImm | lsrImm | asrImm | addReg | addImm3 | subReg | subImm3 | movImm | cmpImm | addImm8 | subImm8 | andReg
  | eorReg | lslReg | lsrReg | asrReg | adcReg | sbcReg | rorReg | tstReg | negReg | cmpReg | cmnReg | orrReg | mulReg
  | bicReg | mvnReg | addLoHi | cmpLoHi | cmpHiLo | cmpHiHi | movLoHi | addPc | addSpRd | addSpPos | addSpNeg
  | blHigh => exact State.advance_hasNext (by exact hs.pc_lt)
  | addHiLo | addHiHi | movHiLo | movHiHi => exact hs.finishHi_hasNext _ _
  | ldrPc rd word8 => exact hs.load_hasNext rd .word id (pcAddr_aligned s word8)
  | ldrReg rd rb ro => exact hs.load_hasNext rd .word id (hs.regAddr_aligned rb ro .word)
  | ldrbReg rd rb ro => exact hs.load_hasNext rd .byte id (hs.regAddr_aligned rb ro .byte)
  | ldrhReg rd rb ro => exact hs.load_hasNext rd .half id (hs.regAddr_aligned rb ro .half)
  | ldsbReg rd rb ro => exact hs.load_hasNext rd .byte sextByte (hs.regAddr_aligned rb ro .byte)
  | ldshReg rd rb ro => exact hs.load_hasNext rd .half sextHalf (hs.regAddr_aligned rb ro .half)
  | ldrImm rd rb off5 => exact hs.load_hasNext rd .word id (hs.immAddr_word_aligned rb off5)
  | ldrbImm rd rb off5 => exact hs.load_hasNext rd .byte id (Nat.mod_one _)
  | ldrhImm rd rb off5 => exact hs.load_hasNext rd .half id (hs.immAddr_half_aligned rb off5)
  | ldrSp rd word8 => exact hs.load_hasNext rd .word id (hs.spAddr_aligned word8)
  | strReg rd rb ro => exact hs.store_hasNext .word _ (hs.regAddr_aligned rb ro .word)
  | strbReg rd rb ro => exact hs.store_hasNext .byte _ (hs.regAddr_aligned rb ro .byte)
  | strhReg rd rb ro => exact hs.store_hasNext .half _ (hs.regAddr_aligned rb ro .half)
  | strImm rd rb off5 => exact hs.store_hasNext .word _ (hs.immAddr_word_aligned rb off5)
  | strbImm rd rb off5 => exact hs.store_hasNext .byte _ (Nat.mod_one _)
  | strhImm rd rb off5 => exact hs.store_hasNext .half _ (hs.immAddr_half_aligned rb off5)
  | strSp rd word8 => exact hs.store_hasNext .word _ (hs.spAddr_aligned word8)
  | beq | bne | bcs | bcc | bmi | bpl | bvs | bvc | bhi | bls | bge | blt | bgt | ble => exact hs.branchIf_hasNext _ _
  | bxLo rs sbz =>
    obtain rfl := sbzOk_iff.1 h
    exact ⟨_, State.exchange_arm (by rw [hs.lo]; rfl)⟩
  | bxHi hd sbz =>
    obtain rfl := sbzOk_iff.1 h
    exact hs.execBxHi_hasNext hd
  | push rlist =>
    have hlen := listRegs_length_le rlist
    rw [exec_push_of_ne_zero (listOk_iff.1 h)]
    exact hs.pushWords_hasNext (by rw [State.listValues_length]; omega)
  | pushLr rlist =>
    have hlen := listRegs_length_le rlist
    exact hs.pushWords_hasNext (by rw [List.length_append, State.listValues_length, List.length_singleton]; omega)
  | pop rlist => exact ⟨_, execPop_next (listOk_iff.1 h) (fun k _ => hs.readable_slot hs.sp k) hs.pc_lt⟩
  | popPc rlist => exact ⟨_, execPopPc_next fun k _ => hs.readable_slot hs.sp k⟩
  | stmia rb rlist =>
    obtain ⟨hne, hb⟩ := wellFormed_stmia_iff.1 h
    exact hs.execStmia_hasNext hne hb
  | ldmia rb rlist =>
    exact ⟨_, execLdmia_next (listOk_iff.1 h) (fun k _ => hs.readable_slot (hs.lo rb) k) hs.pc_lt⟩
  | swi | b | blLow => exact .next _
  | undefAddLoLo | undefCmpLoLo | undefMovLoLo | undefBxH1 | undefCond1110 | undefB1 | undefB2B3 | undefB6B7
  | undefB8BB | undefBEBF | undefE8EF => cases h

end Cleared

end Sys2Proof.Machine
end

section
/-! The statement on well-formed instructions. -/

namespace Sys2Proof.Proofs

open Sys2Proof.Machine

/-- Settles O58: the checks well-formedness is made of stop in every state; past them only an access, an unaligned
target or the top of the address space stops, and none of these does in the reset state. -/
theorem wellFormedHasEffect : Obligations.WellFormedHasEffect := by
  intro i s
  refine ⟨fun h => exec_of_not_wellFormed h s, fun h => ?_⟩
  have haccepts := exec_acceptsEncoding h s
  refine ⟨⟨State.reset, cleared_reset.exec_hasNext h⟩, fun w pc hf => ?_, fun r hr pc hf => ?_⟩
  · exact Bool.noConfusion (haccepts _ hf)
  · have hfault := haccepts _ hf
    simp only [List.mem_cons, List.not_mem_nil, or_false] at hr
    obtain rfl | rfl | rfl := hr <;> cases hfault

end Sys2Proof.Proofs
end
